-- ==== Sys2Proof/Word.lean ====
section
/-! DEFINITION. The widths of the block's data (spec R6, R7, R22) and its checksum kind (R11). -/

namespace Sys2Proof

/-- A byte, on the wire and in a buffer (R6). -/
abbrev Byte := BitVec 8

/-- A 16-bit quantity: a CRC, a TNS, a length register. -/
abbrev Half := BitVec 16

/-- A host register (R22). -/
abbrev Word := BitVec 32

/-- The checksum kind `k` of R11: `k = 0` is BCC, `k = 1` is CRC-16. -/
inductive ChkKind where
  | bcc
  | crc
  deriving DecidableEq, Repr

end Sys2Proof
end

