-- ==== Sys2Proof/Config.lean ====
section
/-! DEFINITION. The OPEN parameters of R5 and the values the spec leaves free (log 2, log 4). None of the `opaque` constants
has a body: nothing can be proved of a value of theirs. -/

namespace Sys2Proof

/-- The parameters that R5 leaves OPEN, "a named argument of the model". `base` is only the place of the register window on
the host bus (R81). -/
structure Params where
  maxInterior : Nat
  bufSize : Nat
  base : Nat
  tnsReset : Half
  deriving DecidableEq, Repr

/-- The bounds R5 puts on the OPEN parameters. -/
abbrev Params.Legal (p : Params) : Prop :=
  6 ≤ p.maxInterior ∧ p.maxInterior ≤ p.bufSize ∧ p.bufSize ≤ 32765

/-- Picks `BUF_SIZE` among the values R5 allows. -/
opaque Config.bufSizeChoice : Nat

/-- Picks `MAX_INTERIOR` among the values R5 allows. -/
opaque Config.maxInteriorChoice : Nat

/-- `BASE` (R5, 93 U7). -/
opaque Config.base : Nat

/-- `TNS_RESET` (R5, 93 U5). -/
opaque Config.tnsReset : Half

/-- `BUF_SIZE`: any value from 6 to 32765. -/
def Config.bufSize : Nat := Config.bufSizeChoice % 32760 + 6

/-- `MAX_INTERIOR`: any value from 6 to `BUF_SIZE`. -/
def Config.maxInterior : Nat := Config.maxInteriorChoice % (Config.bufSize - 5) + 6

/-- The parameters of the instance that `State.reset` is the reset state of. -/
def Config.params : Params where
  maxInterior := Config.maxInterior
  bufSize := Config.bufSize
  base := Config.base
  tnsReset := Config.tnsReset

/-- FREE VALUE (93 U1, U2, U4): what a host read returns for a buffer byte without a value a program may rely on, at the
given draw and block-relative address. -/
opaque Config.freeByte (draw : Nat) (addr : Nat) : Byte

end Sys2Proof
end

