-- ==== Sys2Proof/Syntax.lean ====
section
/-! DEFINITION. The rows of spec/opcode_table.json, one constructor each: the host commands (R100, R101), the port events
(R90) and the tokens of the wire (R91, R92, R97). -/

namespace Sys2Proof

/-- One constructor per row of the opcode table. The checksum kind `K` of a command code is part of the constructor, as it
is part of the row. -/
inductive Instr where
  | stuff
  | destuff
  | chkBcc
  | chkCrc
  | verifyBcc
  | verifyCrc
  | encodeBcc
  | encodeCrc
  | decodeBcc
  | decodeCrc
  | send
  | cancel
  | reserved (code : Byte)
  | rx (b : Byte)
  | tick
  | reset
  | wireStartDelim
  | wireEndDelim
  | wireDleDle
  | wireAck
  | wireNak
  | wireEnq
  deriving DecidableEq, Repr

end Sys2Proof
end

