-- ==== Sys2Proof/WellFormed.lean ====
section
/-! DEFINITION. Which terms of `Instr` stand for something the block can be given: a RESERVED command carries a code that
R100 assigns to no other command (R101). Every other constructor's operands are unrestricted. -/

namespace Sys2Proof

/-- The codes R100 assigns to a command. -/
def assignedCodes : List Byte :=
  [0x02, 0x04, 0x06, 0x07, 0x08, 0x09, 0x0A, 0x0B, 0x0C, 0x0D, 0x0E, 0x10]

/-- R101: the reserved codes are those that R100 does not list. -/
def isReservedCode (code : Byte) : Bool := !assignedCodes.contains code

/-- Well-formedness of an instruction. -/
def Instr.wf : Instr → Bool
  | .reserved code => isReservedCode code
  | .stuff => true
  | .destuff => true
  | .chkBcc => true
  | .chkCrc => true
  | .verifyBcc => true
  | .verifyCrc => true
  | .encodeBcc => true
  | .encodeCrc => true
  | .decodeBcc => true
  | .decodeCrc => true
  | .send => true
  | .cancel => true
  | .rx _ => true
  | .tick => true
  | .reset => true
  | .wireStartDelim => true
  | .wireEndDelim => true
  | .wireDleDle => true
  | .wireAck => true
  | .wireNak => true
  | .wireEnq => true

end Sys2Proof
end

