-- ==== Sys2Proof/Decode.lean ====
section
/-! DEFINITION. The encodings of 30_encoding.md: command codes (R99 to R101), the 10-bit stimulus words (R103) and the
tokens of the wire (R91, R92, R97), each with a decoder, and after them the encoder. -/

namespace Sys2Proof

/-- The wire byte values of R91. -/
def dle : Byte := 0x10
def stx : Byte := 0x02
def etx : Byte := 0x03
def ack : Byte := 0x06
def nak : Byte := 0x15
def enq : Byte := 0x05

/-- What a decoder is given: a stimulus word (R103), or the bytes of one token as they pass on the link (R91, R92). -/
inductive Encoding where
  | stimulus (w : BitVec 10)
  | wire (bytes : List Byte)
  deriving DecidableEq, Repr

/-- Why a decoder refuses. -/
inductive DecodeError where
  /-- A word with bits [9:8] = 10 or 11 that is neither TICK nor RESET (R103, 93 U14). -/
  | notAStimulus
  /-- Bytes that are none of the wire tokens of the opcode table. -/
  | notAWireToken
  deriving DecidableEq, Repr

/-- R100 and R101: every 8-bit code has a meaning, a reserved one that of RESERVED. -/
def decodeCommand (code : Byte) : Instr :=
  match code.toNat with
  | 0x02 => .stuff
  | 0x04 => .destuff
  | 0x06 => .chkBcc
  | 0x07 => .chkCrc
  | 0x08 => .verifyBcc
  | 0x09 => .verifyCrc
  | 0x0A => .encodeBcc
  | 0x0B => .encodeCrc
  | 0x0C => .decodeBcc
  | 0x0D => .decodeCrc
  | 0x0E => .send
  | 0x10 => .cancel
  | _ => .reserved code

/-- R103: bits [9:8] select a command (00), a received byte (01), or TICK and RESET, which are one word each. -/
def decodeStimulus (w : BitVec 10) : Except DecodeError Instr :=
  match (w.extractLsb' 8 2).toNat with
  | 0 => .ok (decodeCommand (w.extractLsb' 0 8))
  | 1 => .ok (.rx (w.extractLsb' 0 8))
  | 2 => if w = 0b1000000000#10 then .ok .tick else .error .notAStimulus
  | _ => if w = 0b1100000000#10 then .ok .reset else .error .notAStimulus

/-- R91, R92, R97: the tokens, first byte first. -/
def decodeWire : List Byte → Except DecodeError Instr
  | [b] =>
    if b = ack then .ok .wireAck
    else if b = nak then .ok .wireNak
    else if b = enq then .ok .wireEnq
    else .error .notAWireToken
  | [b, c] =>
    if b = dle then
      if c = stx then .ok .wireStartDelim
      else if c = etx then .ok .wireEndDelim
      else if c = dle then .ok .wireDleDle
      else .error .notAWireToken
    else .error .notAWireToken
  | _ => .error .notAWireToken

/-- The decoder: total, and what it refuses it refuses by name. -/
def decode : Encoding → Except DecodeError Instr
  | .stimulus w => decodeStimulus w
  | .wire bytes => decodeWire bytes

/-- The stimulus word of a command code: `00cccccccc` (R103). -/
def commandWord (code : Byte) : BitVec 10 := 0b00#2 ++ code

/-- The encoding of each instruction, from the tables of R91, R92, R100 and R103. -/
def encode : Instr → Encoding
  | .stuff => .stimulus (commandWord 0x02)
  | .destuff => .stimulus (commandWord 0x04)
  | .chkBcc => .stimulus (commandWord 0x06)
  | .chkCrc => .stimulus (commandWord 0x07)
  | .verifyBcc => .stimulus (commandWord 0x08)
  | .verifyCrc => .stimulus (commandWord 0x09)
  | .encodeBcc => .stimulus (commandWord 0x0A)
  | .encodeCrc => .stimulus (commandWord 0x0B)
  | .decodeBcc => .stimulus (commandWord 0x0C)
  | .decodeCrc => .stimulus (commandWord 0x0D)
  | .send => .stimulus (commandWord 0x0E)
  | .cancel => .stimulus (commandWord 0x10)
  | .reserved code => .stimulus (commandWord code)
  | .rx b => .stimulus (0b01#2 ++ b)
  | .tick => .stimulus 0b1000000000#10
  | .reset => .stimulus 0b1100000000#10
  | .wireStartDelim => .wire [dle, stx]
  | .wireEndDelim => .wire [dle, etx]
  | .wireDleDle => .wire [dle, dle]
  | .wireAck => .wire [ack]
  | .wireNak => .wire [nak]
  | .wireEnq => .wire [enq]

/-- The encoding a word of the opcode table stands for (log 8). A word of 8 bits is a command code, but for 0x15 and 0x05,
which the rows WIRE.NAK and WIRE.ENQ name and only the catch-all row RESERVED shares; a longer word is a stimulus word where
it fits 10 bits, else a wire token of two bytes, the first on the wire in bits [15:8]. -/
def tableEncoding (nbits w : Nat) : Encoding :=
  if nbits ≤ 8 then
    if w = nak.toNat ∨ w = enq.toNat then .wire [BitVec.ofNat 8 w] else .stimulus (commandWord (BitVec.ofNat 8 w))
  else if w < 1024 then .stimulus (BitVec.ofNat 10 w)
  else .wire [BitVec.ofNat 8 (w / 256), BitVec.ofNat 8 w]

/-- The instruction the decoder reads from a word numbered as the opcode table numbers it. -/
def decodeTableWord (nbits w : Nat) : Option Instr :=
  match decode (tableEncoding nbits w) with
  | .ok i => some i
  | .error _ => none

end Sys2Proof
end

