-- ==== Sys2Proof/Machine/State.lean ====
section
/-! DEFINITION. The state of the block (10_state.md R20, R21, R44), its reset value (R290), and the reasons a step stops.
The fields that are the model's own, not the spec's, stand last and are marked so. -/

namespace Sys2Proof.Machine

/-- TM_STATUS.STATE (R34). The values 5 to 7, which R34 says are never held, have no constructor (log 9). -/
inductive TmState where
  | idle
  | awaitAck
  | awaitReply
  | matched
  | failed
  deriving DecidableEq, Repr

/-- TM_STATUS.FAIL (R35). The value 3, which R35 says is never held, has no constructor (log 9). -/
inductive FailReason where
  | none
  | noAck
  | noReply
  deriving DecidableEq, Repr

/-- RES.CODE: the result codes of R260. The values 0x09 to 0xFF, which R260 says are never written, have no constructor
(log 9). -/
inductive ResCode where
  | ok
  | malformed
  | incomplete
  | checksum
  | illegal
  | busy
  | config
  | tooLong
  | short
  deriving DecidableEq, Repr

/-- The bytes of the three buffers that something has written since reset, by block-relative address (R62), addresses strictly
rising. An address that is not listed has NO value: nothing has written it (log 3). -/
abbrev Memory := List Host.Cell

/-- What the environment can present to the block, one stimulus a step (R90). -/
inductive Stimulus where
  /-- A command or a port event by its word (R103), or a wire token by its bytes (log 7). -/
  | coded (e : Encoding)
  /-- `MemRead(a, n)`, `a` block-relative (R81). -/
  | memRead (a : Nat) (n : Nat)
  /-- `MemWrite(a, n, v)`, `a` block-relative (R81); an access of one byte uses the low byte of `v`. -/
  | memWrite (a : Nat) (n : Nat) (v : Word)
  deriving DecidableEq, Repr

/-- The data of the most recent host read (log 5). -/
inductive ReadData where
  | none
  | byte (b : Byte)
  | word (w : Word)
  deriving DecidableEq, Repr

/-- The state. -/
structure State where
  /-- RES.CODE (R24). -/
  resCode : ResCode
  /-- RES.VOK (R24). -/
  resVok : Bool
  /-- CFG.CHK_KIND (R25). -/
  chkKind : ChkKind
  /-- CFG.MAX_RETRIES (R25). -/
  maxRetries : BitVec 8
  /-- ACK_TO (R27). -/
  ackTo : Word
  /-- REPLY_TO (R28). -/
  replyTo : Word
  /-- ADDR.SRC (R29). -/
  addrSrc : Byte
  /-- ADDR.DST (R29). -/
  addrDst : Byte
  /-- IN_LEN (R30). -/
  inLen : Half
  /-- OUT_LEN (R31). -/
  outLen : Half
  /-- DEC_INFO.DST (R32). -/
  decDst : Byte
  /-- DEC_INFO.SRC (R32). -/
  decSrc : Byte
  /-- DEC_INFO.CONSUMED (R32). -/
  decConsumed : Half
  /-- TM_STATUS.STATE (R34). -/
  tmState : TmState
  /-- TM_STATUS.FAIL (R35). -/
  fail : FailReason
  /-- TM_STATUS.STALE_SEEN (R36). -/
  staleSeen : Bool
  /-- TM_STATUS.RETRY_COUNT (R37). -/
  retryCount : BitVec 8
  /-- TNS.TNS_CUR (R38). -/
  tnsCur : Half
  /-- TNS.TNS_NEXT (R38). -/
  tnsNext : Half
  /-- TIMER (R39). -/
  timer : Word
  /-- REPLY_INFO.STS (R40). -/
  replySts : Byte
  /-- REPLY_INFO.DST (R40). -/
  replyDst : Byte
  /-- REPLY_INFO.SRC (R40). -/
  replySrc : Byte
  /-- REPLY_LEN (R41). -/
  replyLen : Half
  /-- `rx`, oldest byte first (R42). -/
  rx : List Byte
  /-- `tx_frame` (R43). -/
  txFrame : List Byte
  /-- `txs`, oldest byte first (R33). -/
  txs : List Byte
  /-- IN_BUF, OUT_BUF and REPLY_BUF (R44, R62). -/
  mem : Memory
  /-- MODEL'S OWN: the OPEN parameters of the instance (R5, R49; log 2). -/
  params : Params
  /-- MODEL'S OWN: the stimuli the environment has presented and the block has not yet taken (R49, R74; log 1). -/
  inputs : List Stimulus
  /-- MODEL'S OWN: the data of the most recent host read (log 5). -/
  lastRead : ReadData
  /-- MODEL'S OWN: the draw of IN_BUF's free bytes (log 4). -/
  inDraw : Nat
  /-- MODEL'S OWN: the draw of OUT_BUF's free bytes (log 4). -/
  outDraw : Nat
  /-- MODEL'S OWN: the draw of REPLY_BUF's free bytes (log 4). -/
  replyDraw : Nat
  deriving DecidableEq, Repr

/-- Why the machine stops with a fault. -/
inductive Fault where
  /-- Raised by a command that takes input bytes, when one of the bytes it uses is an IN_BUF byte that nothing has written
  since reset (93 U4, 92 D42; log 3). SAFE: the hardware goes on with a value nobody knows. -/
  | unwrittenInput
  deriving DecidableEq, Repr

/-- Why a host access is an access error (R63 to R65). -/
inductive AccessError where
  /-- A register access that is not 32 bits wide (R63), or a buffer access that is neither 8 nor 32 bits wide (R64). -/
  | wrongWidth
  /-- A 32-bit access at an offset that is no multiple of 4 (R63, R64). -/
  | misaligned
  /-- An offset that no register and no buffer byte has (R65), or a 32-bit access of which a byte is at or above the buffer's
  capacity (R64). -/
  | unmapped
  deriving DecidableEq, Repr

/-- Why a step is refused. -/
inductive Refusal where
  /-- An instruction of the opcode table without a meaning. Only a refused arm of `exec` raises it. SAFE. -/
  | notModelled (mnemonic : String)
  /-- Raised by the fetch of a stimulus word or of a wire token that the decoder refuses (R103, 93 U14; log 7). SAFE. -/
  | undecodable (why : DecodeError)
  /-- Raised by a host access that is an access error (R66, 93 U3: "a model refuses the host access"; log 6). SAFE. -/
  | accessError (why : AccessError)
  deriving DecidableEq, Repr

/-- R290: every element at its reset value, for an instance with the parameters `p`. The buffers list no byte: their contents
are unspecified. -/
def State.resetWith (p : Params) : State where
  resCode := .ok
  resVok := false
  chkKind := .bcc
  maxRetries := 3
  ackTo := 0
  replyTo := 0
  addrSrc := 0
  addrDst := 0
  inLen := 0
  outLen := 0
  decDst := 0
  decSrc := 0
  decConsumed := 0
  tmState := .idle
  fail := .none
  staleSeen := false
  retryCount := 0
  tnsCur := 0
  tnsNext := p.tnsReset
  timer := 0
  replySts := 0
  replyDst := 0
  replySrc := 0
  replyLen := 0
  rx := []
  txFrame := []
  txs := []
  mem := []
  params := p
  inputs := []
  lastRead := .none
  inDraw := 0
  outDraw := 0
  replyDraw := 0

/-- The machine right after reset, its OPEN parameters at the constants of Config, of which only R5's bounds are known. -/
def State.reset : State := State.resetWith Config.params

end Sys2Proof.Machine
end

