-- ==== Sys2Proof/Machine/Ops.lean ====
section
/-! DEFINITION. The named operations over the buffers and the registers: buffer windows and capacities (R5, R62), byte
reads and writes, byte order (R7, R64, R69), the receive and transmit streams (R79, R33), and ending a command (R9, R260,
R264). -/

namespace Sys2Proof.Machine

/-- Windows of R62, block-relative. -/
def inBufBase : Nat := 0x10000
def outBufBase : Nat := 0x20000
def replyBufBase : Nat := 0x30000

/-- Capacities of R5. -/
def outCap (p : Params) : Nat := 2 * p.bufSize + 6
def replyCap (p : Params) : Nat := p.maxInterior - 2
def rxCap (p : Params) : Nat := 2 * p.maxInterior + 6

/-- R12: the checksum length `L(k)`. -/
def checkLen : ChkKind → Nat
  | .bcc => 1
  | .crc => 2

/-- R7: `lo8` and `hi8`. -/
def lo8 (v : Half) : Byte := v.extractLsb' 0 8
def hi8 (v : Half) : Byte := v.extractLsb' 8 8

/-- Two bytes, low byte first (R69). -/
def half (lo hi : Byte) : Half := hi ++ lo

/-- R64: the little-endian word of four bytes. -/
def littleEndian (b0 b1 b2 b3 : Byte) : Word := b3 ++ b2 ++ b1 ++ b0

/-- The four bytes of a word, lowest first (R64). -/
def wordBytes (w : Word) : List Byte :=
  [w.extractLsb' 0 8, w.extractLsb' 8 8, w.extractLsb' 16 8, w.extractLsb' 24 8]

/-- The canonical form of the memory: addresses strictly rising. No entry can equal what an unlisted address reads as, since
that is no value. -/
abbrev Memory.wf (m : Memory) : Prop := m.Pairwise (fun x y => x.1 < y.1)

/-- The byte at an address, or `none` where nothing has written it. -/
def readByte : Memory → Nat → Option Byte
  | [], _ => none
  | (k, b) :: m, a => if k = a then some b else readByte m a

/-- Write one byte, keeping the canonical form. -/
def writeByte : Memory → Nat → Byte → Memory
  | [], a, b => [(a, b)]
  | (k, c) :: m, a, b =>
    if a < k then (a, b) :: (k, c) :: m
    else if a = k then (a, b) :: m
    else (k, c) :: writeByte m a b

/-- The `n` bytes from an address up, or `none` where one of them has no value. -/
def readBytes (m : Memory) (a : Nat) : Nat → Option (List Byte)
  | 0 => some []
  | n + 1 =>
    match readByte m a, readBytes m (a + 1) n with
    | some b, some bs => some (b :: bs)
    | _, _ => none

/-- Write bytes from an address up. -/
def writeBytes (m : Memory) (a : Nat) : List Byte → Memory
  | [] => m
  | b :: bs => writeBytes (writeByte m a b) (a + 1) bs

/-- The stimulus by which the block receives the byte `b` (R79, R90), by its word of R103. -/
def rxStimulus (b : Byte) : Stimulus := .coded (encode (.rx b))

/-- The bytes `bs` arrive next, one RX stimulus each (R79), before the stimuli still to come. -/
def present (bs : List Byte) (s : State) : State := { s with inputs := bs.map rxStimulus ++ s.inputs }

/-- R33: `tx(bs)`. -/
def transmit (bs : List Byte) (s : State) : State := { s with txs := s.txs ++ bs }

/-- Every command writes RES.CODE and RES.VOK (R24, R261). -/
def setRes (code : ResCode) (vok : Bool) (s : State) : State := { s with resCode := code, resVok := vok }

/-- A command other than a verify ends well: OK, and VOK 0 (R24). -/
def finish (s : State) : State := setRes .ok false s

/-- R9, R260, R264: `raise E` ends the command with the result code E. This is the block's only exception: nothing is saved,
no mode changes, and there is no return from it (R265), since the next command runs whatever RES holds. -/
def raise (e : ResCode) (s : State) : State := setRes e false s

/-- A command writes OUT_BUF from index 0 and OUT_LEN (R31); what a host read finds beyond OUT_LEN is drawn anew (log 4). -/
def setOut (bs : List Byte) (s : State) : State :=
  { s with mem := writeBytes s.mem outBufBase bs, outLen := BitVec.ofNat 16 bs.length, outDraw := s.outDraw + 1 }

/-- A command that failed leaves OUT_LEN 0 and writes no byte of OUT_BUF (R124, R171, R178). -/
def clearOut (s : State) : State := { s with outLen := 0 }

/-- DEC_INFO (R32). -/
def setDecInfo (dst src : Byte) (consumed : Nat) (s : State) : State :=
  { s with decDst := dst, decSrc := src, decConsumed := BitVec.ofNat 16 consumed }

end Sys2Proof.Machine
end

