-- ==== Sys2Proof/Machine/Flags.lean ====
section
/-! DEFINITION. The conditions and codes of the status registers: the wait states, `cfg_ok` (R48), and the numbers the named
values have in the registers (R11, R34, R35, R260). The block has no condition codes (R46). -/

namespace Sys2Proof.Machine

/-- STATE in AWAIT_ACK, AWAIT_REPLY: a transaction is active. -/
def awaiting (s : State) : Bool := s.tmState = .awaitAck || s.tmState = .awaitReply

/-- R48: `cfg_ok`. -/
def cfgOk (s : State) : Bool := 1 ≤ s.maxRetries.toNat && 1 ≤ s.ackTo.toNat && s.ackTo.toNat < s.replyTo.toNat

/-- R34: the number of a state in TM_STATUS[2:0]. -/
def TmState.code : TmState → BitVec 3
  | .idle => 0
  | .awaitAck => 1
  | .awaitReply => 2
  | .matched => 3
  | .failed => 4

/-- R35: the number of a failure reason in TM_STATUS[5:4]. -/
def FailReason.code : FailReason → BitVec 2
  | .none => 0
  | .noAck => 1
  | .noReply => 2

/-- R260: the number of a result code in RES[7:0]. -/
def ResCode.code : ResCode → BitVec 8
  | .ok => 0x00
  | .malformed => 0x01
  | .incomplete => 0x02
  | .checksum => 0x03
  | .illegal => 0x04
  | .busy => 0x05
  | .config => 0x06
  | .tooLong => 0x07
  | .short => 0x08

/-- R11: the bit of a checksum kind. -/
def kindBit : ChkKind → BitVec 1
  | .bcc => 0
  | .crc => 1

/-- R11: the checksum kind of a bit. -/
def kindOfBit (b : Bool) : ChkKind := if b then .crc else .bcc

end Sys2Proof.Machine
end

