-- ==== Sys2Proof/Machine/Operands.lean ====
section
/-! DEFINITION. How a command takes its operands (R102): the input bytes of IN_BUF, and the body of a SEND (R222, R225). -/

namespace Sys2Proof.Machine

/-- R102: `in = IN_BUF[0:IN_LEN]`, or `none` where it includes a byte nothing has written (93 U4; log 3). -/
def inputBytes (s : State) : Option (List Byte) := readBytes s.mem inBufBase s.inLen.toNat

/-- A command that takes its input bytes: its effect on them, or the fault of 93 U4. -/
def withInput (s : State) (effect : List Byte → State) : Host.Outcome State Fault Refusal :=
  match inputBytes s with
  | some xs => .next (effect xs)
  | none => .fault .unwrittenInput

/-- R222: the body of a SEND, IN_BUF[0:IN_LEN] with bytes 2 and 3 replaced by the TNS, low byte first (R225). The host's
bytes 2 and 3 "are ignored and replaced", so they need not have been written (log 3). -/
def sendBody (tns : Half) (s : State) : Option (List Byte) :=
  match readBytes s.mem inBufBase 2, readBytes s.mem (inBufBase + 4) (s.inLen.toNat - 4) with
  | some header, some rest => some (header ++ [lo8 tns, hi8 tns] ++ rest)
  | _, _ => none

end Sys2Proof.Machine
end

