-- ==== Sys2Proof/Machine/Checksum.lean ====
section
/-! DEFINITION. The checksum engine (41_checksum.md): BCC, CRC-16, CHK and VERIFY. -/

namespace Sys2Proof.Machine

/-- The 8-bit accumulator of R140. -/
def byteSum : List Byte → Byte
  | [] => 0
  | b :: xs => b + byteSum xs

/-- R140: the two's complement of the sum of the bytes modulo 256. -/
def bcc (xs : List Byte) : Byte := -byteSum xs

/-- One of the eight rounds of R145's `crc16_update`. -/
def crcRound (c : Half) : Half := if c.getLsbD 0 then (c >>> 1) ^^^ 0xA001#16 else c >>> 1

/-- `crcRound`, `n` times. -/
def crcRounds : Nat → Half → Half
  | 0, c => c
  | n + 1, c => crcRounds n (crcRound c)

/-- R145: `crc16_update`. -/
def crcUpdate (c : Half) (b : Byte) : Half := crcRounds 8 (c ^^^ b.setWidth 16)

/-- R145: CRC-16/ARC, initial value 0. -/
def crc16 (xs : List Byte) : Half := xs.foldl crcUpdate 0x0000

/-- R150: `chk(k, xs)`; the CRC low byte first (R147). -/
def chk : ChkKind → List Byte → List Byte
  | .bcc, xs => [bcc xs]
  | .crc, xs => [lo8 (crc16 xs), hi8 (crc16 xs)]

/-- R151: `verify(k, xs, cs)`. -/
def verify (k : ChkKind) (xs cs : List Byte) : Bool := cs = chk k xs

/-- R152: CHK_COMPUTE with the kind `k`. -/
def checkCompute (k : ChkKind) (s : State) : Host.Outcome State Fault Refusal :=
  withInput s fun xs => finish (setOut (chk k xs) s)

/-- R153: the input read as body and check bytes; a mismatch is VOK 0 with result OK. -/
def verifyInput (k : ChkKind) (s : State) (xs : List Byte) : State :=
  let bodyLen := s.inLen.toNat - checkLen k
  setRes .ok (verify k (xs.take bodyLen) (xs.drop bodyLen)) s

/-- R153: CHK_VERIFY with the kind `k`; the length is checked first (R266), before any byte is taken. -/
def checkVerify (k : ChkKind) (s : State) : Host.Outcome State Fault Refusal :=
  if s.inLen.toNat < checkLen k then .next (raise .short s) else withInput s (verifyInput k s)

/-- R152: CHK.BCC. -/
def execChkBcc (s : State) : Host.Outcome State Fault Refusal := checkCompute .bcc s

/-- R152: CHK.CRC. -/
def execChkCrc (s : State) : Host.Outcome State Fault Refusal := checkCompute .crc s

/-- R153: VERIFY.BCC. -/
def execVerifyBcc (s : State) : Host.Outcome State Fault Refusal := checkVerify .bcc s

/-- R153: VERIFY.CRC. -/
def execVerifyCrc (s : State) : Host.Outcome State Fault Refusal := checkVerify .crc s

end Sys2Proof.Machine
end

