-- ==== Sys2Proof/Machine/Stuffing.lean ====
section
/-! DEFINITION. The byte stuffer and destuffer (40_stuffing.md): STUFF and DESTUFF. -/

namespace Sys2Proof.Machine

/-- R120: double every DLE. -/
def stuff : List Byte → List Byte
  | [] => []
  | b :: xs => if b = dle then dle :: dle :: stuff xs else b :: stuff xs

/-- R123: collapse every doubled DLE, `none` being MALFORMED: a DLE that no second DLE follows. -/
def destuff : List Byte → Option (List Byte)
  | [] => some []
  | [b] => if b = dle then none else some [b]
  | b :: c :: ys =>
    if b = dle then
      if c = dle then (destuff ys).map (dle :: ·) else none
    else (destuff (c :: ys)).map (b :: ·)

/-- R121: STUFF. -/
def execStuff (s : State) : Host.Outcome State Fault Refusal :=
  withInput s fun xs => finish (setOut (stuff xs) s)

/-- R124: the effect of DESTUFF on its input. -/
def destuffInput (s : State) (ys : List Byte) : State :=
  match destuff ys with
  | some out => finish (setOut out s)
  | none => raise .malformed (clearOut s)

/-- R124: DESTUFF. -/
def execDestuff (s : State) : Host.Outcome State Fault Refusal := withInput s (destuffInput s)

end Sys2Proof.Machine
end

