-- ==== Sys2Proof/Machine/FrameCodec.lean ====
section
/-! DEFINITION. The frame encoder and decoder (42_frame_codec.md): ENCODE and DECODE. -/

namespace Sys2Proof.Machine

/-- R93: the frame of an interior; the check bytes follow END_DELIM, unstuffed (90 C1). -/
def frameOf (k : ChkKind) (interior : List Byte) : List Byte :=
  [dle, stx] ++ stuff interior ++ [dle, etx] ++ chk k interior

/-- R170: `encode(src, dst, body, k)`, `none` being TOO_LONG; DST is the interior's first byte (R94). -/
def encodeFrame (maxInterior : Nat) (src dst : Byte) (body : List Byte) (k : ChkKind) : Option (List Byte) :=
  let interior := [dst, src] ++ body
  if maxInterior < interior.length then none else some (frameOf k interior)

/-- R171: the effect of ENCODE on its body. -/
def encodeInput (k : ChkKind) (s : State) (body : List Byte) : State :=
  match encodeFrame s.params.maxInterior s.addrSrc s.addrDst body k with
  | some f => finish (setOut f s)
  | none => raise .tooLong (clearOut s)

/-- R171: ENCODE with the kind `k`. A body that is too long is refused by its length alone, before any byte is taken. -/
def encodeCommand (k : ChkKind) (s : State) : Host.Outcome State Fault Refusal :=
  if s.params.maxInterior < s.inLen.toNat + 2 then .next (raise .tooLong (clearOut s))
  else withInput s (encodeInput k s)

/-- R171: ENCODE.BCC. -/
def execEncodeBcc (s : State) : Host.Outcome State Fault Refusal := encodeCommand .bcc s

/-- R171: ENCODE.CRC. -/
def execEncodeCrc (s : State) : Host.Outcome State Fault Refusal := encodeCommand .crc s

/-- How the scan of a frame's interior ends (R175's loop). -/
inductive Scan where
  /-- The buffer ends before END_DELIM. -/
  | incomplete
  /-- An unpaired DLE, or an interior byte beyond MAX_INTERIOR; `used` bytes up to and including it. -/
  | malformed (used : Nat)
  /-- END_DELIM found: the index after it, the destuffed interior, and the bytes after END_DELIM. -/
  | complete (i : Nat) (interior rest : List Byte)
  deriving DecidableEq, Repr

/-- R175's loop, from the index `i` with the interior found so far. -/
def scan (maxInterior : Nat) : List Byte → Nat → List Byte → Scan
  | [], _, _ => .incomplete
  | [b], i, interior =>
    if b = dle then .incomplete
    else if maxInterior < interior.length + 1 then .malformed (i + 1)
    else .incomplete
  | b :: c :: ys, i, interior =>
    if b = dle then
      if c = dle then
        if maxInterior < interior.length + 1 then .malformed (i + 2)
        else scan maxInterior ys (i + 2) (interior ++ [dle])
      else if c = etx then .complete (i + 2) interior ys
      else .malformed (i + 2)
    else if maxInterior < interior.length + 1 then .malformed (i + 1)
    else scan maxInterior (c :: ys) (i + 1) (interior ++ [b])

/-- The result of R175's `decode`, with the count of bytes it consumes (R176). -/
inductive Decoded where
  | incomplete
  | malformed (used : Nat)
  | checksum (used : Nat)
  | ok (used : Nat) (dst src : Byte) (body : List Byte)
  deriving DecidableEq, Repr

/-- The end of R175: the check bytes, once END_DELIM has been found. -/
def checkFrame (k : ChkKind) (i : Nat) (interior rest : List Byte) : Decoded :=
  if rest.length < checkLen k then .incomplete
  else
    match interior with
    | dst :: src :: body =>
      if rest.take (checkLen k) = chk k interior then .ok (i + checkLen k) dst src body
      else .checksum (i + checkLen k)
    | _ => .malformed (i + checkLen k)

/-- R175: `decode(buf, k)`. -/
def decodeFrame (maxInterior : Nat) (k : ChkKind) : List Byte → Decoded
  | [] => .incomplete
  | [b] => if b = dle then .incomplete else .malformed 1
  | b :: c :: ys =>
    if b = dle then
      if c = stx then
        match scan maxInterior ys 2 [] with
        | .incomplete => .incomplete
        | .malformed used => .malformed used
        | .complete i interior rest => checkFrame k i interior rest
      else .malformed 2
    else .malformed 1

/-- R176: the consumed count. -/
def Decoded.used : Decoded → Nat
  | .incomplete => 0
  | .malformed used => used
  | .checksum used => used
  | .ok used _ _ _ => used

/-- R178: the effect of DECODE on its input. -/
def decodeInput (k : ChkKind) (s : State) (buf : List Byte) : State :=
  match decodeFrame s.params.maxInterior k buf with
  | .ok used dst src body => finish (setDecInfo dst src used (setOut body s))
  | .incomplete => raise .incomplete (setDecInfo 0 0 0 (clearOut s))
  | .malformed used => raise .malformed (setDecInfo 0 0 used (clearOut s))
  | .checksum used => raise .checksum (setDecInfo 0 0 used (clearOut s))

/-- R178: DECODE with the kind `k`. -/
def decodeCommandFrame (k : ChkKind) (s : State) : Host.Outcome State Fault Refusal := withInput s (decodeInput k s)

/-- R178: DECODE.BCC. -/
def execDecodeBcc (s : State) : Host.Outcome State Fault Refusal := decodeCommandFrame .bcc s

/-- R178: DECODE.CRC. -/
def execDecodeCrc (s : State) : Host.Outcome State Fault Refusal := decodeCommandFrame .crc s

end Sys2Proof.Machine
end

