-- ==== Sys2Proof/Machine/Transaction.lean ====
section
/-! DEFINITION. The transaction state machine (43_transaction.md): the shared procedures, SEND and CANCEL. -/

namespace Sys2Proof.Machine

/-- The stage of an attempt (R210). -/
inductive Stage where
  | ack
  | reply
  deriving DecidableEq, Repr

/-- R210, R211: the failure reason of a stage. -/
def Stage.reason : Stage → FailReason
  | .ack => .noAck
  | .reply => .noReply

/-- R210: `fail_attempt(stage)`. -/
def failAttempt (stage : Stage) (s : State) : State :=
  if s.retryCount < s.maxRetries then
    transmit s.txFrame
      { s with rx := [], retryCount := s.retryCount + 1, tmState := .awaitAck, timer := s.ackTo }
  else { s with rx := [], tmState := .failed, timer := 0, fail := stage.reason }

/-- R212: `match(d, s, body)`. What a host read finds in REPLY_BUF beyond REPLY_LEN is drawn anew (log 4). -/
def matchReply (dst src : Byte) (body : List Byte) (s : State) : State :=
  { s with
    replyDst := dst
    replySrc := src
    replySts := body.getD 1 0
    mem := writeBytes s.mem replyBufBase body
    replyLen := BitVec.ofNat 16 body.length
    tmState := .matched
    timer := 0
    rx := []
    replyDraw := s.replyDraw + 1 }

/-- R225: the TNS of a command body. -/
def bodyTns (body : List Byte) : Half := half (body.getD 2 0) (body.getD 3 0)

/-- R227: `correlates(body)`. -/
def correlates (body : List Byte) (s : State) : Bool := 4 ≤ body.length && bodyTns body = s.tnsCur

/-- R219: `ack_step()`, the head of `rx` being `h` and the bytes after it `rest`. -/
def ackStep (h : Byte) (rest : List Byte) (s : State) : State :=
  if h = ack then { s with rx := rest, tmState := .awaitReply, timer := s.replyTo }
  else failAttempt .ack s

/-- R226: whether `process_rx` goes on after a reply step. -/
inductive Progress where
  | goOn (s : State)
  | stop (s : State)
  deriving DecidableEq, Repr

/-- R97: the handshake bytes, which R226 drops between frames. -/
def isHandshake (b : Byte) : Bool := b = ack || b = nak || b = enq

/-- R226, R227 to R229: a checksum-valid frame is consumed and acknowledged; it matches, or it is stale. -/
def acceptFrame (used : Nat) (dst src : Byte) (body : List Byte) (s : State) : Progress :=
  let t := transmit [ack] { s with rx := s.rx.drop used }
  if correlates body t then .stop (matchReply dst src body t) else .goOn { t with staleSeen := true }

/-- R226: `reply_step()`, the head of `rx` being `h` and the bytes after it `rest`. -/
def replyStep (h : Byte) (rest : List Byte) (s : State) : Progress :=
  if isHandshake h then .goOn { s with rx := rest }
  else
    match decodeFrame s.params.maxInterior s.chkKind s.rx with
    | .incomplete => .stop s
    | .malformed _ => .stop (failAttempt .reply s)
    | .checksum _ => .stop (failAttempt .reply s)
    | .ok used dst src body => acceptFrame used dst src body s

/-- R218: the loop of `process_rx()`, at most `fuel` times round; `receive` gives it `len(rx)`, which R218 says suffices
(log 12). -/
def processRx : Nat → State → State
  | 0, s => s
  | fuel + 1, s =>
    match s.rx with
    | [] => s
    | h :: rest =>
      match s.tmState with
      | .awaitAck => processRx fuel (ackStep h rest s)
      | .awaitReply =>
        match replyStep h rest s with
        | .goOn t => processRx fuel t
        | .stop t => t
      | .idle => s
      | .matched => s
      | .failed => s

/-- R218, R232: the block receives a byte. -/
def receive (b : Byte) (s : State) : State :=
  if awaiting s then processRx (s.rx.length + 1) { s with rx := s.rx ++ [b] } else s

/-- R220, R221: the checks of SEND, in their order; the first that fails gives the result code. -/
def sendRefusal (s : State) : Option ResCode :=
  if awaiting s then some .busy
  else if !cfgOk s then some .config
  else if s.inLen.toNat < 4 then some .short
  else if s.params.maxInterior < s.inLen.toNat + 2 then some .tooLong
  else none

/-- R222: an accepted SEND whose body, its TNS in place, is `body`. -/
def startTransaction (body : List Byte) (s : State) : State :=
  let frame := frameOf s.chkKind ([s.addrDst, s.addrSrc] ++ body)
  finish (transmit frame
    { s with
      tnsNext := s.tnsNext + 1
      tnsCur := s.tnsNext
      txFrame := frame
      rx := []
      retryCount := 1
      tmState := .awaitAck
      timer := s.ackTo
      fail := .none
      staleSeen := false
      replySts := 0
      replyDst := 0
      replySrc := 0
      replyLen := 0 })

/-- R220, R222: SEND. -/
def execSend (s : State) : Host.Outcome State Fault Refusal :=
  match sendRefusal s with
  | some e => .next (raise e s)
  | none =>
    match sendBody s.tnsNext s with
    | some body => .next (startTransaction body s)
    | none => .fault .unwrittenInput

/-- R233: CANCEL. -/
def execCancel (s : State) : Host.Outcome State Fault Refusal :=
  .next (finish { s with rx := [], tmState := .idle, timer := 0, fail := .none })

/-- R101: a reserved command code. -/
def execReserved (_code : Byte) (s : State) : Host.Outcome State Fault Refusal := .next (raise .illegal s)

end Sys2Proof.Machine
end

