-- ==== Sys2Proof/Machine/Events.lean ====
section
/-! DEFINITION. The port events RX (R218), TICK (R215) and RESET (R290), and the reception of the wire's tokens (R91, R92,
R97; log 7). -/

namespace Sys2Proof.Machine

/-- R218: RX. -/
def execRx (b : Byte) (s : State) : Host.Outcome State Fault Refusal := .next (receive b s)

/-- R215: the effect of TICK. -/
def tickState (s : State) : State :=
  match s.tmState with
  | .awaitAck =>
    let t := { s with timer := s.timer - 1 }
    if t.timer = 0 then failAttempt .ack t else t
  | .awaitReply =>
    let t := { s with timer := s.timer - 1 }
    if t.timer = 0 then failAttempt .reply t else t
  | .idle => s
  | .matched => s
  | .failed => s

/-- R215: TICK. -/
def execTick (s : State) : Host.Outcome State Fault Refusal := .next (tickState s)

/-- R290: RESET. The instance's parameters and the stimuli still to come are not the block's state; the buffers' contents are
unspecified afresh (log 4, log 14). -/
def execReset (s : State) : Host.Outcome State Fault Refusal :=
  .next { State.resetWith s.params with
    inputs := s.inputs
    inDraw := s.inDraw + 1
    outDraw := s.outDraw + 1
    replyDraw := s.replyDraw + 1 }

/-- A wire token of the bytes `first :: rest` begins to arrive. A step receives one byte (R10, R73, R79): this one receives
`first`, and each byte of `rest` is the RX stimulus of a step that follows (log 7). -/
def receiveToken (first : Byte) (rest : List Byte) (s : State) : State := present rest (receive first s)

/-- R92: START_DELIM begins to arrive. -/
def execWireStartDelim (s : State) : Host.Outcome State Fault Refusal := .next (receiveToken dle [stx] s)

/-- R92: END_DELIM begins to arrive. -/
def execWireEndDelim (s : State) : Host.Outcome State Fault Refusal := .next (receiveToken dle [etx] s)

/-- R120: a doubled DLE begins to arrive. -/
def execWireDleDle (s : State) : Host.Outcome State Fault Refusal := .next (receiveToken dle [dle] s)

/-- R97: an ACK arrives. -/
def execWireAck (s : State) : Host.Outcome State Fault Refusal := .next (receiveToken ack [] s)

/-- R97: a NAK arrives. -/
def execWireNak (s : State) : Host.Outcome State Fault Refusal := .next (receiveToken nak [] s)

/-- R97: an ENQ arrives. -/
def execWireEnq (s : State) : Host.Outcome State Fault Refusal := .next (receiveToken enq [] s)

end Sys2Proof.Machine
end

