-- ==== Sys2Proof/Machine/Dispatch.lean ====
section
/-! DEFINITION. One arm per row of spec/opcode_table.json. -/

namespace Sys2Proof.Machine

def exec (i : Instr) (s : State) : Host.Outcome State Fault Refusal :=
  match i with
  | .stuff => Sys2Proof.Machine.execStuff s
  | .destuff => Sys2Proof.Machine.execDestuff s
  | .chkBcc => Sys2Proof.Machine.execChkBcc s
  | .chkCrc => Sys2Proof.Machine.execChkCrc s
  | .verifyBcc => Sys2Proof.Machine.execVerifyBcc s
  | .verifyCrc => Sys2Proof.Machine.execVerifyCrc s
  | .encodeBcc => Sys2Proof.Machine.execEncodeBcc s
  | .encodeCrc => Sys2Proof.Machine.execEncodeCrc s
  | .decodeBcc => Sys2Proof.Machine.execDecodeBcc s
  | .decodeCrc => Sys2Proof.Machine.execDecodeCrc s
  | .send => Sys2Proof.Machine.execSend s
  | .cancel => Sys2Proof.Machine.execCancel s
  | .reserved code => Sys2Proof.Machine.execReserved code s
  | .rx b => Sys2Proof.Machine.execRx b s
  | .tick => Sys2Proof.Machine.execTick s
  | .reset => Sys2Proof.Machine.execReset s
  | .wireStartDelim => Sys2Proof.Machine.execWireStartDelim s
  | .wireEndDelim => Sys2Proof.Machine.execWireEndDelim s
  | .wireDleDle => Sys2Proof.Machine.execWireDleDle s
  | .wireAck => Sys2Proof.Machine.execWireAck s
  | .wireNak => Sys2Proof.Machine.execWireNak s
  | .wireEnq => Sys2Proof.Machine.execWireEnq s

end Sys2Proof.Machine
end

