-- ==== Sys2Proof/Machine/Fetch.lean ====
section
/-! DEFINITION. The block takes the next stimulus (R10, R90, R103). -/

namespace Sys2Proof.Machine

/-- What the next stimulus asks of the block. -/
inductive Request where
  /-- No stimulus is presented: the block waits (R292). -/
  | wait
  /-- An instruction of the opcode table. -/
  | run (i : Instr)
  | read (a n : Nat)
  | write (a n : Nat) (v : Word)
  | reject (why : Refusal)
  deriving DecidableEq, Repr

/-- R23, R63: the 32-bit write at offset 0 is the write to CMD, and it executes the command of its low byte. -/
def isCommandWrite (a n : Nat) : Bool := a = 0 && n = 4

/-- The request of a stimulus. -/
def requestOf : Stimulus → Request
  | .coded e =>
    match decode e with
    | .ok i => .run i
    | .error why => .reject (.undecodable why)
  | .memRead a n => .read a n
  | .memWrite a n v => if isCommandWrite a n then .run (decodeCommand (v.extractLsb' 0 8)) else .write a n v

/-- The request of the next stimulus. -/
def fetch (s : State) : Request :=
  match s.inputs with
  | [] => .wait
  | x :: _ => requestOf x

/-- The state once the next stimulus has been taken. -/
def takeInput (s : State) : State := { s with inputs := s.inputs.tail }

end Sys2Proof.Machine
end

