-- ==== Sys2Proof/Machine/HostBus.lean ====
section
/-! DEFINITION. Host reads and writes (20_memory.md): the register map (R61), the buffer windows (R62), the access rules
(R63 to R66), side effects (R67, R68) and the bus address (R81). A write to CMD is not here: it runs a command, and the fetch
takes it. -/

namespace Sys2Proof.Machine

/-- R81: the bus address of a block-relative address. -/
def busAddress (p : Params) (a : Nat) : Nat := p.base + a

/-- The block-relative address of a bus address; below BASE the block is not addressed (log 10). -/
def offsetOfBus (p : Params) (addr : Nat) : Option Nat := if p.base ≤ addr then some (addr - p.base) else none

/-- Where a block-relative address lies (R61, R62). -/
inductive Place where
  | register
  | inBuf
  | outBuf
  | replyBuf
  | nowhere
  deriving DecidableEq, Repr

/-- R61, R62, R65. -/
def placeOf (p : Params) (a : Nat) : Place :=
  if a < 0x40 then .register
  else if inBufBase ≤ a ∧ a < inBufBase + p.bufSize then .inBuf
  else if outBufBase ≤ a ∧ a < outBufBase + outCap p then .outBuf
  else if replyBufBase ≤ a ∧ a < replyBufBase + replyCap p then .replyBuf
  else .nowhere

/-- R63 to R65: whether an access of `n` bytes at `a` is an access error, and why. -/
def accessErrorOf (p : Params) (a n : Nat) : Option AccessError :=
  match placeOf p a with
  | .nowhere => some .unmapped
  | .register => if n ≠ 4 then some .wrongWidth else if a % 4 ≠ 0 then some .misaligned else none
  | w =>
    if n = 1 then none
    else if n ≠ 4 then some .wrongWidth
    else if a % 4 ≠ 0 then some .misaligned
    else if placeOf p (a + 3) ≠ w then some .unmapped
    else none

/-- RES (R24). -/
def resWord (s : State) : Word := 0#23 ++ BitVec.ofBool s.resVok ++ s.resCode.code

/-- CFG (R25). -/
def cfgWord (s : State) : Word := 0#16 ++ s.maxRetries ++ 0#7 ++ kindBit s.chkKind

/-- ADDR (R29). -/
def addrWord (s : State) : Word := 0#16 ++ s.addrDst ++ s.addrSrc

/-- DEC_INFO (R32). -/
def decInfoWord (s : State) : Word := s.decConsumed ++ s.decSrc ++ s.decDst

/-- TM_STATUS (R34 to R37). -/
def tmStatusWord (s : State) : Word :=
  0#8 ++ s.retryCount ++ 0#7 ++ BitVec.ofBool s.staleSeen ++ 0#2 ++ s.fail.code ++ 0#1 ++ s.tmState.code

/-- TNS (R38). -/
def tnsWord (s : State) : Word := s.tnsNext ++ s.tnsCur

/-- REPLY_INFO (R40). -/
def replyInfoWord (s : State) : Word := 0#8 ++ s.replySrc ++ s.replyDst ++ s.replySts

/-- A 16-bit field in bits [15:0]. -/
def lowHalf (v : Half) : Word := 0#16 ++ v

/-- R61: the value of the register at an offset; a read of CMD returns 0 (R68). -/
def registerWord (s : State) (a : Nat) : Word :=
  match a with
  | 0x004 => resWord s
  | 0x008 => cfgWord s
  | 0x00C => s.ackTo
  | 0x010 => s.replyTo
  | 0x014 => addrWord s
  | 0x018 => lowHalf s.inLen
  | 0x01C => lowHalf s.outLen
  | 0x020 => decInfoWord s
  | 0x024 => tmStatusWord s
  | 0x028 => tnsWord s
  | 0x02C => s.timer
  | 0x030 => replyInfoWord s
  | 0x034 => lowHalf s.replyLen
  | 0x038 => lowHalf (BitVec.ofNat 16 s.rx.length)
  | 0x03C => lowHalf (BitVec.ofNat 16 s.txFrame.length)
  | _ => 0

/-- The byte a host read finds at a buffer address: a byte of IN_BUF that was written, of OUT_BUF below OUT_LEN, of REPLY_BUF
below REPLY_LEN; every other one is a free value (93 U1, U2, U4; log 4). -/
def bufferByte (s : State) (a : Nat) : Byte :=
  match placeOf s.params a with
  | .inBuf => (readByte s.mem a).getD (Config.freeByte s.inDraw a)
  | .outBuf =>
    if a < outBufBase + s.outLen.toNat then (readByte s.mem a).getD (Config.freeByte s.outDraw a)
    else Config.freeByte s.outDraw a
  | .replyBuf =>
    if a < replyBufBase + s.replyLen.toNat then (readByte s.mem a).getD (Config.freeByte s.replyDraw a)
    else Config.freeByte s.replyDraw a
  | .register => 0
  | .nowhere => 0

/-- R64, R71: the little-endian word of four buffer bytes. -/
def bufferWord (s : State) (a : Nat) : Word :=
  littleEndian (bufferByte s a) (bufferByte s (a + 1)) (bufferByte s (a + 2)) (bufferByte s (a + 3))

/-- The data of a read that is no access error. -/
def readData (s : State) (a n : Nat) : ReadData :=
  if placeOf s.params a = .register then .word (registerWord s a)
  else if n = 1 then .byte (bufferByte s a)
  else .word (bufferWord s a)

/-- `MemRead(a, n)` (R81): the data goes to the host, and nothing in the block changes (R67). -/
def hostRead (a n : Nat) (s : State) : Host.Outcome State Fault Refusal :=
  match accessErrorOf s.params a n with
  | some e => .refused (.accessError e)
  | none => .next { s with lastRead := readData s a n }

/-- R26: CFG, ACK_TO and REPLY_TO keep their values while a transaction is active. -/
def writeConfig (s : State) (t : State) : State := if awaiting s then s else t

/-- The effect of a write to the register at an offset: R25, R27 to R30, R68. -/
def writeRegister (a : Nat) (v : Word) (s : State) : State :=
  match a with
  | 0x008 => writeConfig s { s with chkKind := kindOfBit (v.getLsbD 0), maxRetries := v.extractLsb' 8 8 }
  | 0x00C => writeConfig s { s with ackTo := v }
  | 0x010 => writeConfig s { s with replyTo := v }
  | 0x014 => { s with addrSrc := v.extractLsb' 0 8, addrDst := v.extractLsb' 8 8 }
  | 0x018 => { s with inLen := BitVec.ofNat 16 (min (v.extractLsb' 0 16).toNat s.params.bufSize) }
  | _ => s

/-- The bytes a buffer write stores (R64). -/
def writtenBytes (n : Nat) (v : Word) : List Byte := if n = 1 then [v.extractLsb' 0 8] else wordBytes v

/-- The effect of a write that is no access error: only IN_BUF is writable among the buffers (R44, R68). -/
def writePlace (a n : Nat) (v : Word) (s : State) : State :=
  match placeOf s.params a with
  | .register => writeRegister a v s
  | .inBuf => { s with mem := writeBytes s.mem a (writtenBytes n v) }
  | .outBuf => s
  | .replyBuf => s
  | .nowhere => s

/-- `MemWrite(a, n, v)` (R81) to anything but CMD. -/
def hostWrite (a n : Nat) (v : Word) (s : State) : Host.Outcome State Fault Refusal :=
  match accessErrorOf s.params a n with
  | some e => .refused (.accessError e)
  | none => .next (writePlace a n v s)

end Sys2Proof.Machine
end

