-- ==== Sys2Proof/Machine/Step.lean ====
section
/-! DEFINITION. One step: the block takes exactly one stimulus (R10, R73), or waits when none is presented (R292). -/

namespace Sys2Proof.Machine

/-- One step. -/
def step (s : State) : Host.Outcome State Fault Refusal :=
  match fetch s with
  | .wait => .next s
  | .run i => exec i (takeInput s)
  | .read a n => hostRead a n (takeInput s)
  | .write a n v => hostWrite a n v (takeInput s)
  | .reject why => .refused why

/-- The state with the instruction of an opcode-table word presented as the next stimulus (log 1, log 8). -/
def State.withFetchWord (s : State) (nbits w : Nat) : State :=
  { s with inputs := .coded (tableEncoding nbits w) :: s.inputs }

end Sys2Proof.Machine
end

