-- ==== Sys2Proof/Safety.lean ====
section
/-! DEFINITION. The vocabulary of the claims: the invariant of R47 with the bounds of R5, R21 and R42, what it is for a part of
the state to be left alone, and runs of several instructions. -/

namespace Sys2Proof.Machine

/-- A buffer address that exists in an instance (R62). -/
def isBufferAddress (p : Params) (a : Nat) : Bool :=
  placeOf p a = .inBuf || placeOf p a = .outBuf || placeOf p a = .replyBuf

/-- What holds of every state the block can be in: R47, and the bounds of R5, R21, R30, R42, R43 and R62 it rests on. -/
structure Inv (s : State) : Prop where
  /-- R5. -/
  legal : s.params.Legal
  /-- The memory is in canonical form. -/
  memWf : s.mem.wf
  /-- Only bytes of the three buffers exist (R62). -/
  memPlaces : ∀ c ∈ s.mem, isBufferAddress s.params c.1 = true
  /-- R30. -/
  inLen : s.inLen.toNat ≤ s.params.bufSize
  /-- R31: the valid bytes lie in OUT_BUF. -/
  outLen : s.outLen.toNat ≤ outCap s.params
  /-- R47, first clause; the configuration SEND found legal (R48) stays as it is (R26). -/
  waiting : awaiting s = true →
    1 ≤ s.timer.toNat ∧ 1 ≤ s.retryCount.toNat ∧ s.retryCount.toNat ≤ s.maxRetries.toNat ∧ cfgOk s = true
  /-- R47, second clause. -/
  resting : awaiting s = false → s.timer = 0 ∧ s.rx = []
  /-- R47, third clause. -/
  failing : s.fail ≠ .none ↔ s.tmState = .failed
  /-- R47, fourth clause. -/
  matched : s.tmState = .matched → s.replyLen.toNat + 2 ≤ s.params.maxInterior
  /-- R42, R218: `rx` never outgrows RX_CAP. -/
  rxBound : s.rx.length ≤ rxCap s.params
  /-- In AWAIT_ACK every received byte has been consumed (R219). -/
  ackWait : s.tmState = .awaitAck → s.rx = []
  /-- In AWAIT_REPLY `rx` holds at most one partial frame (R42). -/
  replyWait : s.tmState = .awaitReply → decodeFrame s.params.maxInterior s.chkKind s.rx = .incomplete
  /-- R21: the bound of `tx_frame`. -/
  txFrame : s.txFrame.length ≤ 2 * s.params.maxInterior + 6

/-- The transaction state machine, its registers and its streams are as before. -/
structure SameTransaction (s t : State) : Prop where
  tmState : t.tmState = s.tmState
  fail : t.fail = s.fail
  staleSeen : t.staleSeen = s.staleSeen
  retryCount : t.retryCount = s.retryCount
  tnsCur : t.tnsCur = s.tnsCur
  tnsNext : t.tnsNext = s.tnsNext
  timer : t.timer = s.timer
  replySts : t.replySts = s.replySts
  replyDst : t.replyDst = s.replyDst
  replySrc : t.replySrc = s.replySrc
  replyLen : t.replyLen = s.replyLen
  rx : t.rx = s.rx
  txFrame : t.txFrame = s.txFrame
  txs : t.txs = s.txs

/-- The registers a host sets, and what is not the block's own, are as before. -/
structure SameSetup (s t : State) : Prop where
  chkKind : t.chkKind = s.chkKind
  maxRetries : t.maxRetries = s.maxRetries
  ackTo : t.ackTo = s.ackTo
  replyTo : t.replyTo = s.replyTo
  addrSrc : t.addrSrc = s.addrSrc
  addrDst : t.addrDst = s.addrDst
  inLen : t.inLen = s.inLen
  params : t.params = s.params
  inputs : t.inputs = s.inputs
  lastRead : t.lastRead = s.lastRead

/-- DEC_INFO is as before. -/
structure SameDecInfo (s t : State) : Prop where
  decDst : t.decDst = s.decDst
  decSrc : t.decSrc = s.decSrc
  decConsumed : t.decConsumed = s.decConsumed

/-- The results of the codec commands, RES, OUT_LEN and DEC_INFO, are as before. -/
structure SameResults (s t : State) : Prop where
  resCode : t.resCode = s.resCode
  resVok : t.resVok = s.resVok
  outLen : t.outLen = s.outLen
  decInfo : SameDecInfo s t

/-- Every byte of memory outside the `n` bytes from `a` up reads as before. -/
def SameBytesOutside (a n : Nat) (s t : State) : Prop :=
  ∀ b, b < a ∨ a + n ≤ b → readByte t.mem b = readByte s.mem b

/-- Every byte of memory reads as before. -/
def SameBytes (s t : State) : Prop := ∀ b, readByte t.mem b = readByte s.mem b

/-- The state `s` with the transaction registers and streams of `u`: what R237 says a codec command neither reads nor
writes. -/
def withTransactionOf (u s : State) : State :=
  { s with
    tmState := u.tmState
    fail := u.fail
    staleSeen := u.staleSeen
    retryCount := u.retryCount
    tnsCur := u.tnsCur
    tnsNext := u.tnsNext
    timer := u.timer
    replySts := u.replySts
    replyDst := u.replyDst
    replySrc := u.replySrc
    replyLen := u.replyLen
    rx := u.rx
    txFrame := u.txFrame
    txs := u.txs }

/-- The ten codec commands of R237. -/
def isCodec : Instr → Bool
  | .stuff => true
  | .destuff => true
  | .chkBcc => true
  | .chkCrc => true
  | .verifyBcc => true
  | .verifyCrc => true
  | .encodeBcc => true
  | .encodeCrc => true
  | .decodeBcc => true
  | .decodeCrc => true
  | .send => false
  | .cancel => false
  | .reserved _ => false
  | .rx _ => false
  | .tick => false
  | .reset => false
  | .wireStartDelim => false
  | .wireEndDelim => false
  | .wireDleDle => false
  | .wireAck => false
  | .wireNak => false
  | .wireEnq => false

/-- The bytes a codec command stores, from the start of OUT_BUF up (R121, R124, R152, R171, R178). -/
def storedBytes (i : Instr) (s : State) : List Byte :=
  let encoded (k : ChkKind) (body : List Byte) :=
    (encodeFrame s.params.maxInterior s.addrSrc s.addrDst body k).getD []
  let decoded (k : ChkKind) (buf : List Byte) :=
    match decodeFrame s.params.maxInterior k buf with
    | .ok _ _ _ body => body
    | .incomplete => []
    | .malformed _ => []
    | .checksum _ => []
  match inputBytes s with
  | none => []
  | some xs =>
    match i with
    | .stuff => stuff xs
    | .destuff => (destuff xs).getD []
    | .chkBcc => chk .bcc xs
    | .chkCrc => chk .crc xs
    | .encodeBcc => encoded .bcc xs
    | .encodeCrc => encoded .crc xs
    | .decodeBcc => decoded .bcc xs
    | .decodeCrc => decoded .crc xs
    | .verifyBcc => []
    | .verifyCrc => []
    | .send => []
    | .cancel => []
    | .reserved _ => []
    | .rx _ => []
    | .tick => []
    | .reset => []
    | .wireStartDelim => []
    | .wireEndDelim => []
    | .wireDleDle => []
    | .wireAck => []
    | .wireNak => []
    | .wireEnq => []

/-- The bytes that arrive on the link with a port event or a wire token. -/
def arrivingBytes : Instr → List Byte
  | .rx b => [b]
  | .wireStartDelim => [dle, stx]
  | .wireEndDelim => [dle, etx]
  | .wireDleDle => [dle, dle]
  | .wireAck => [ack]
  | .wireNak => [nak]
  | .wireEnq => [enq]
  | .stuff => []
  | .destuff => []
  | .chkBcc => []
  | .chkCrc => []
  | .verifyBcc => []
  | .verifyCrc => []
  | .encodeBcc => []
  | .encodeCrc => []
  | .decodeBcc => []
  | .decodeCrc => []
  | .send => []
  | .cancel => []
  | .reserved _ => []
  | .tick => []
  | .reset => []

/-- The byte the block receives in the step of an instruction, where it receives one: the first that arrives (R10, R73). -/
def receivedByte (i : Instr) : Option Byte := (arrivingBytes i).head?

/-- Instructions one after the other, stopping at the first that does not answer a next state. -/
def runAll : List Instr → State → Host.Outcome State Fault Refusal
  | [], s => .next s
  | i :: is, s =>
    match exec i s with
    | .next t => runAll is t
    | .fault r => .fault r
    | .refused r => .refused r

end Sys2Proof.Machine
end

