-- ==== Sys2Proof/Certificates/Slice0/Obligations.lean ====
section
/-! DEFINITION. The statements for the provers. Each docstring names the rule of the spec it formalises, or the log entry
where it rests on a choice of the model. -/

open Sys2Proof Sys2Proof.Machine

/-! ## Encodings -/

/-- Every well-formed instruction is what its encoding decodes to. -/
def Obligations.DecodeOfEncodeIsTheInstruction : Prop :=
  ∀ i : Instr, i.wf = true → decode (encode i) = .ok i

/-- The decoder accepts only encodings of well-formed instructions, each the encoding of the one it gives. -/
def Obligations.EncodeOfDecodeIsTheEncoding : Prop :=
  ∀ (e : Encoding) (i : Instr), decode e = .ok i → i.wf = true ∧ encode i = e

/-- R103. -/
def Obligations.StimulusWordsReadByTheirTopBits : Prop :=
  (∀ code : Byte, decodeStimulus (0b00#2 ++ code) = .ok (decodeCommand code)) ∧
  (∀ b : Byte, decodeStimulus (0b01#2 ++ b) = .ok (.rx b)) ∧
  decodeStimulus 0b1000000000#10 = .ok .tick ∧
  decodeStimulus 0b1100000000#10 = .ok .reset ∧
  ∀ w : BitVec 10, w.getLsbD 9 = true → w ≠ 0b1000000000#10 → w ≠ 0b1100000000#10 →
    decodeStimulus w = .error .notAStimulus

/-- R101: a reserved code executes as E_ILLEGAL and changes nothing else. -/
def Obligations.ReservedCodesAreIllegal : Prop :=
  ∀ (code : Byte) (s : State),
    code ∉ [0x02#8, 0x04#8, 0x06#8, 0x07#8, 0x08#8, 0x09#8, 0x0A#8, 0x0B#8, 0x0C#8, 0x0D#8, 0x0E#8, 0x10#8] →
    decodeCommand code = .reserved code ∧
    exec (decodeCommand code) s = .next { s with resCode := .illegal, resVok := false }

/-- The twelve codes of R100, and words of the other formats, decode to the rows of the opcode table they stand for (the
places of the bits: log 8). -/
def Obligations.TableWordsDecodeToTheirRows : Prop :=
  decodeTableWord 8 0x02 = some .stuff ∧ decodeTableWord 8 0x04 = some .destuff ∧
  decodeTableWord 8 0x06 = some .chkBcc ∧ decodeTableWord 8 0x07 = some .chkCrc ∧
  decodeTableWord 8 0x08 = some .verifyBcc ∧ decodeTableWord 8 0x09 = some .verifyCrc ∧
  decodeTableWord 8 0x0A = some .encodeBcc ∧ decodeTableWord 8 0x0B = some .encodeCrc ∧
  decodeTableWord 8 0x0C = some .decodeBcc ∧ decodeTableWord 8 0x0D = some .decodeCrc ∧
  decodeTableWord 8 0x0E = some .send ∧ decodeTableWord 8 0x10 = some .cancel ∧
  decodeTableWord 8 0xFF = some (.reserved 0xFF) ∧
  decodeTableWord 16 0x106 = some (.rx 0x06) ∧ decodeTableWord 16 0x200 = some .tick ∧
  decodeTableWord 16 0x300 = some .reset ∧ decodeTableWord 16 0x201 = none ∧
  decodeTableWord 16 0x1002 = some .wireStartDelim ∧ decodeTableWord 16 0x1003 = some .wireEndDelim ∧
  decodeTableWord 16 0x1010 = some .wireDleDle ∧ decodeWire [0x06] = .ok .wireAck ∧
  decodeWire [0x15] = .ok .wireNak ∧ decodeWire [0x05] = .ok .wireEnq

/-! ## Steps -/

/-- The step takes the next stimulus (R10, R90; log 1): where it decodes to an instruction, the step is that instruction's
execution on the state that has taken it; where it is a host access (R81) other than the 32-bit write to CMD, of which R23
speaks, the step is that access on the state that has taken it; what does not decode is refused (R103); and with no stimulus
the block waits (R292). -/
def Obligations.StepRunsTheDecodedInstruction : Prop :=
  (∀ (s : State) (e : Encoding) (rest : List Stimulus), s.inputs = .coded e :: rest →
    (∀ i, decode e = .ok i → step s = exec i { s with inputs := rest }) ∧
    ∀ why, decode e = .error why → step s = .refused (.undecodable why)) ∧
  (∀ (s : State) (a n : Nat) (rest : List Stimulus), s.inputs = .memRead a n :: rest →
    step s = hostRead a n { s with inputs := rest }) ∧
  (∀ (s : State) (a n : Nat) (v : Word) (rest : List Stimulus), s.inputs = .memWrite a n v :: rest → ¬(a = 0 ∧ n = 4) →
    step s = hostWrite a n v { s with inputs := rest }) ∧
  ∀ s : State, s.inputs = [] → step s = .next s

/-- R23: the 32-bit write at offset 0 executes the command of its low byte, whatever the other bits, and the written value is
stored nowhere: the step is the step of the command's stimulus word. -/
def Obligations.WriteToCmdExecutesItsCode : Prop :=
  ∀ (s : State) (v : Word) (rest : List Stimulus),
    step { s with inputs := .memWrite 0x000 4 v :: rest } =
      exec (decodeCommand (v.extractLsb' 0 8)) { s with inputs := rest } ∧
    step { s with inputs := .memWrite 0x000 4 v :: rest } =
      step { s with inputs := .coded (.stimulus (0b00#2 ++ v.extractLsb' 0 8)) :: rest } ∧
    hostRead 0x000 4 s = .next { s with lastRead := .word 0 }

/-- Every instruction answers a next state, but for a codec command or a SEND whose input includes a byte nothing has
written since reset (93 U4; log 3). -/
def Obligations.OnlyUnwrittenInputStopsAnInstruction : Prop :=
  ∀ (i : Instr) (s : State),
    (∃ t, exec i s = .next t) ∨
    (exec i s = .fault .unwrittenInput ∧ (isCodec i = true ∨ i = .send) ∧ inputBytes s = none)

/-! ## Host accesses -/

/-- R61 with the fields of R24 to R43, the result codes' numbers of R260, and R22: a read of a reserved bit gives 0. R61 gives OUT_LEN, RX_LEN and TX_LEN as
lengths; that the word holds the low 16 bits of a length, so that 0x03C reads 0 for the one `tx_frame` of 65536 bytes, is the
model's reading (log 15). Where the host's data stands is log 5. -/
def Obligations.RegisterReadsGiveTheFields : Prop :=
  ∀ s : State,
    (∀ a, a < 0x40 → a % 4 = 0 → hostRead a 4 s = .next { s with lastRead := .word (registerWord s a) }) ∧
    registerWord s 0x000 = 0 ∧
    ((registerWord s 0x004).extractLsb' 0 8 =
        (match s.resCode with
          | .ok => 0x00#8 | .malformed => 0x01#8 | .incomplete => 0x02#8 | .checksum => 0x03#8 | .illegal => 0x04#8
          | .busy => 0x05#8 | .config => 0x06#8 | .tooLong => 0x07#8 | .short => 0x08#8) ∧
      (registerWord s 0x004).getLsbD 8 = s.resVok ∧
      (registerWord s 0x004).extractLsb' 9 23 = 0) ∧
    ((registerWord s 0x008).getLsbD 0 = decide (s.chkKind = .crc) ∧ (registerWord s 0x008).extractLsb' 1 7 = 0 ∧
      (registerWord s 0x008).extractLsb' 8 8 = s.maxRetries ∧ (registerWord s 0x008).extractLsb' 16 16 = 0) ∧
    registerWord s 0x00C = s.ackTo ∧ registerWord s 0x010 = s.replyTo ∧
    ((registerWord s 0x014).extractLsb' 0 8 = s.addrSrc ∧ (registerWord s 0x014).extractLsb' 8 8 = s.addrDst ∧
      (registerWord s 0x014).extractLsb' 16 16 = 0) ∧
    ((registerWord s 0x018).extractLsb' 0 16 = s.inLen ∧ (registerWord s 0x018).extractLsb' 16 16 = 0) ∧
    ((registerWord s 0x01C).extractLsb' 0 16 = s.outLen ∧ (registerWord s 0x01C).extractLsb' 16 16 = 0) ∧
    ((registerWord s 0x020).extractLsb' 0 8 = s.decDst ∧ (registerWord s 0x020).extractLsb' 8 8 = s.decSrc ∧
      (registerWord s 0x020).extractLsb' 16 16 = s.decConsumed) ∧
    ((registerWord s 0x024).extractLsb' 0 3 =
        (match s.tmState with | .idle => 0#3 | .awaitAck => 1#3 | .awaitReply => 2#3 | .matched => 3#3 | .failed => 4#3) ∧
      (registerWord s 0x024).getLsbD 3 = false ∧
      (registerWord s 0x024).extractLsb' 4 2 = (match s.fail with | .none => 0#2 | .noAck => 1#2 | .noReply => 2#2) ∧
      (registerWord s 0x024).extractLsb' 6 2 = 0 ∧ (registerWord s 0x024).getLsbD 8 = s.staleSeen ∧
      (registerWord s 0x024).extractLsb' 9 7 = 0 ∧ (registerWord s 0x024).extractLsb' 16 8 = s.retryCount ∧
      (registerWord s 0x024).extractLsb' 24 8 = 0) ∧
    ((registerWord s 0x028).extractLsb' 0 16 = s.tnsCur ∧ (registerWord s 0x028).extractLsb' 16 16 = s.tnsNext) ∧
    registerWord s 0x02C = s.timer ∧
    ((registerWord s 0x030).extractLsb' 0 8 = s.replySts ∧ (registerWord s 0x030).extractLsb' 8 8 = s.replyDst ∧
      (registerWord s 0x030).extractLsb' 16 8 = s.replySrc ∧ (registerWord s 0x030).extractLsb' 24 8 = 0) ∧
    ((registerWord s 0x034).extractLsb' 0 16 = s.replyLen ∧ (registerWord s 0x034).extractLsb' 16 16 = 0) ∧
    ((registerWord s 0x038).extractLsb' 0 16 = BitVec.ofNat 16 s.rx.length ∧
      (registerWord s 0x038).extractLsb' 16 16 = 0) ∧
    ((registerWord s 0x03C).extractLsb' 0 16 = BitVec.ofNat 16 s.txFrame.length ∧
      (registerWord s 0x03C).extractLsb' 16 16 = 0)

/-- R67: a read changes nothing in the block (`lastRead` is the host's data, log 5), so a second read gives the same. -/
def Obligations.HostReadsAreIdempotent : Prop :=
  ∀ (s t : State) (a n : Nat), hostRead a n s = .next t →
    t = { s with lastRead := t.lastRead } ∧ hostRead a n t = .next t

/-- R63 and R65. -/
def Obligations.RegisterAndUnmappedAccessRules : Prop :=
  ∀ p : Params, p.Legal →
    (∀ a n, a < 0x40 → (accessErrorOf p a n = none ↔ n = 4 ∧ a % 4 = 0)) ∧
    (∀ a n, 0x40 ≤ a → a < 0x10000 → accessErrorOf p a n ≠ none) ∧
    (∀ i n, p.bufSize ≤ i → i < 0x10000 → accessErrorOf p (0x10000 + i) n ≠ none) ∧
    (∀ i n, 2 * p.bufSize + 6 ≤ i → i < 0x10000 → accessErrorOf p (0x20000 + i) n ≠ none) ∧
    (∀ i n, p.maxInterior - 2 ≤ i → i < 0x10000 → accessErrorOf p (0x30000 + i) n ≠ none) ∧
    (∀ a n, 0x40000 ≤ a → accessErrorOf p a n ≠ none)

/-- R64: the accesses to IN_BUF, OUT_BUF and REPLY_BUF, the bytes that reads of them return (R44, R62; of OUT_BUF below
OUT_LEN and of REPLY_BUF below REPLY_LEN, R31 and R41), and the little-endian order of a word among a buffer's bytes. -/
def Obligations.BufferAccessRules : Prop :=
  ∀ p : Params, p.Legal →
    (∀ i n, i < p.bufSize →
      (accessErrorOf p (0x10000 + i) n = none ↔ n = 1 ∨ (n = 4 ∧ i % 4 = 0 ∧ i + 3 < p.bufSize))) ∧
    (∀ i n, i < 2 * p.bufSize + 6 →
      (accessErrorOf p (0x20000 + i) n = none ↔ n = 1 ∨ (n = 4 ∧ i % 4 = 0 ∧ i + 3 < 2 * p.bufSize + 6))) ∧
    (∀ i n, i < p.maxInterior - 2 →
      (accessErrorOf p (0x30000 + i) n = none ↔ n = 1 ∨ (n = 4 ∧ i % 4 = 0 ∧ i + 3 < p.maxInterior - 2))) ∧
    (∀ (s : State) (i : Nat) (b : Byte), s.params = p →
      (i < p.bufSize → readByte s.mem (0x10000 + i) = some b →
        hostRead (0x10000 + i) 1 s = .next { s with lastRead := .byte b }) ∧
      (i < 2 * p.bufSize + 6 → i < s.outLen.toNat → readByte s.mem (0x20000 + i) = some b →
        hostRead (0x20000 + i) 1 s = .next { s with lastRead := .byte b }) ∧
      (i < p.maxInterior - 2 → i < s.replyLen.toNat → readByte s.mem (0x30000 + i) = some b →
        hostRead (0x30000 + i) 1 s = .next { s with lastRead := .byte b })) ∧
    (∀ (s t : State) (a : Nat), s.params = p → 0x40 ≤ a → hostRead a 4 s = .next t →
      ∃ b0 b1 b2 b3 : Byte, ∃ w : Word, t.lastRead = .word w ∧
        hostRead a 1 s = .next { s with lastRead := .byte b0 } ∧
        hostRead (a + 1) 1 s = .next { s with lastRead := .byte b1 } ∧
        hostRead (a + 2) 1 s = .next { s with lastRead := .byte b2 } ∧
        hostRead (a + 3) 1 s = .next { s with lastRead := .byte b3 } ∧
        w.toNat = b0.toNat + 256 * b1.toNat + 65536 * b2.toNat + 16777216 * b3.toNat) ∧
    (∀ (s t : State) (i : Nat) (v : Word), s.params = p → i < p.bufSize → hostWrite (0x10000 + i) 4 v s = .next t →
      hostRead (0x10000 + i) 4 t = .next { t with lastRead := .word v } ∧
      readByte t.mem (0x10000 + i) = some (v.extractLsb' 0 8) ∧
      readByte t.mem (0x10000 + i + 1) = some (v.extractLsb' 8 8) ∧
      readByte t.mem (0x10000 + i + 2) = some (v.extractLsb' 16 8) ∧
      readByte t.mem (0x10000 + i + 3) = some (v.extractLsb' 24 8))

/-- R66, as 93 U3 has a model treat it: an access error is refused, for a read and for a write; every other access is
completed, but for the 32-bit write at offset 0, which is no store: it runs a command (R23). -/
def Obligations.AccessErrorsAreRefused : Prop :=
  ∀ (s : State) (a n : Nat) (v : Word),
    (∀ e, accessErrorOf s.params a n = some e →
      hostRead a n s = .refused (.accessError e) ∧ hostWrite a n v s = .refused (.accessError e)) ∧
    (accessErrorOf s.params a n = none →
      (∃ t, hostRead a n s = .next t) ∧ (¬(a = 0 ∧ n = 4) → ∃ t, hostWrite a n v s = .next t))

/-- R26: CFG, ACK_TO and REPLY_TO. -/
def Obligations.ConfigurationWritesAreDroppedInAWait : Prop :=
  ∀ (s : State) (v : Word),
    (s.tmState = .awaitAck ∨ s.tmState = .awaitReply →
      hostWrite 0x008 4 v s = .next s ∧ hostWrite 0x00C 4 v s = .next s ∧ hostWrite 0x010 4 v s = .next s) ∧
    (s.tmState ≠ .awaitAck → s.tmState ≠ .awaitReply →
      hostWrite 0x008 4 v s = .next { s with
        chkKind := if v.getLsbD 0 then .crc else .bcc, maxRetries := v.extractLsb' 8 8 } ∧
      hostWrite 0x00C 4 v s = .next { s with ackTo := v } ∧
      hostWrite 0x010 4 v s = .next { s with replyTo := v })

/-- R30 for IN_LEN, what a write to it stores and which bytes of IN_BUF it makes a command's input, and the write of ADDR
(R29). -/
def Obligations.AddrAndInLenWritesStore : Prop :=
  ∀ (s : State) (v : Word),
    hostWrite 0x014 4 v s = .next { s with addrSrc := v.extractLsb' 0 8, addrDst := v.extractLsb' 8 8 } ∧
    (∃ t, hostWrite 0x018 4 v s = .next t ∧ t = { s with inLen := t.inLen } ∧
      t.inLen.toNat = min (v.toNat % 65536) s.params.bufSize) ∧
    ∀ xs : List Byte, inputBytes s = some xs ↔
      xs.length = s.inLen.toNat ∧ ∀ i (h : i < xs.length), readByte s.mem (0x10000 + i) = some xs[i]

/-- R68. -/
def Obligations.ReadOnlyWritesAreIgnored : Prop :=
  ∀ (s : State) (a n : Nat) (v : Word), s.params.Legal → accessErrorOf s.params a n = none →
    (a = 0x004 ∨ (0x01C ≤ a ∧ a < 0x040) ∨ (0x20000 ≤ a ∧ a < 0x40000) → hostWrite a n v s = .next s) ∧
    hostRead 0x000 4 s = .next { s with lastRead := .word 0 }

/-- R67: what a host write other than to CMD leaves alone, the store being to the accessed bytes of IN_BUF only. That a byte
write of a value of 32 bits stores its low byte, whatever the other bits, is the model's reading (log 18). -/
def Obligations.HostWritesLeaveTheRestAlone : Prop :=
  ∀ (s t : State) (a n : Nat) (v : Word), s.params.Legal → hostWrite a n v s = .next t →
    SameTransaction s t ∧ SameResults s t ∧ t.params = s.params ∧ t.inputs = s.inputs ∧ t.lastRead = s.lastRead ∧
    (a < 0x10000 ∨ 0x20000 ≤ a → SameBytes s t) ∧
    (0x10000 ≤ a → SameBytesOutside a n s t ∧ SameSetup s t) ∧
    (0x10000 ≤ a → a < 0x20000 → n = 1 → readByte t.mem a = some (v.extractLsb' 0 8))

/-! ## Stuffing -/

/-- R120: every DLE doubled, every other byte copied, and the length. -/
def Obligations.StuffDoublesEveryDle : Prop :=
  ∀ xs : List Byte,
    stuff xs = xs.flatMap (fun b => if b = 0x10#8 then [0x10#8, 0x10#8] else [b]) ∧
    (stuff xs).length = xs.length + xs.count 0x10#8

/-- R125: both directions of the round trip. -/
def Obligations.DestuffInvertsStuff : Prop :=
  (∀ xs : List Byte, destuff (stuff xs) = some xs) ∧
  ∀ xs ys : List Byte, destuff ys = some xs → stuff xs = ys

/-- R126: destuffing fails exactly on a maximal run of DLE of odd length, and a run of even length is halved. -/
def Obligations.DestuffFailsExactlyOnOddRuns : Prop :=
  (∀ ys : List Byte, destuff ys = none ↔
    ∃ (pre post : List Byte) (n : Nat), ys = pre ++ List.replicate (2 * n + 1) 0x10#8 ++ post ∧
      pre.getLast? ≠ some 0x10#8 ∧ post.head? ≠ some 0x10#8) ∧
  (∀ (pre post xs zs : List Byte) (n : Nat), destuff pre = some xs → destuff post = some zs →
    destuff (pre ++ List.replicate (2 * n) 0x10#8 ++ post) = some (xs ++ List.replicate n 0x10#8 ++ zs)) ∧
  destuff [0x10] = none ∧ destuff [0x10, 0x03] = none ∧ destuff [] = some []

/-- R121. -/
def Obligations.StuffCommandWritesTheStuffedInput : Prop :=
  ∀ (s : State) (xs : List Byte), Inv s → inputBytes s = some xs →
    ∃ t, exec .stuff s = .next t ∧ t.outLen.toNat = (stuff xs).length ∧
      readBytes t.mem 0x20000 (stuff xs).length = some (stuff xs) ∧
      t.resCode = .ok ∧ t.resVok = false ∧ SameTransaction s t ∧ SameDecInfo s t ∧ SameSetup s t

/-- R124. -/
def Obligations.DestuffCommandWritesTheDestuffedInput : Prop :=
  ∀ (s : State) (ys : List Byte), Inv s → inputBytes s = some ys →
    (∀ out, destuff ys = some out → ∃ t, exec .destuff s = .next t ∧ t.outLen.toNat = out.length ∧
      readBytes t.mem 0x20000 out.length = some out ∧ t.resCode = .ok ∧ t.resVok = false) ∧
    (destuff ys = none → exec .destuff s = .next { s with outLen := 0, resCode := .malformed, resVok := false })

/-! ## Checksums -/

/-- R140 and R141: the BCC, and that its check passes exactly when everything sums to 0 modulo 256. -/
def Obligations.BccMakesTheSumZero : Prop :=
  ∀ xs : List Byte,
    (bcc xs).toNat = (256 - (xs.map BitVec.toNat).sum % 256) % 256 ∧
    ((xs.map BitVec.toNat).sum + (bcc xs).toNat) % 256 = 0 ∧
    ∀ c : Byte, verify .bcc xs [c] = true ↔ ((xs.map BitVec.toNat).sum + c.toNat) % 256 = 0

/-- R146's table-driven step, the table being `crcUpdate 0`; the table's entries at the bytes of one bit, which fix R145's
polynomial, and the rule that gives every other entry from them; and R145's loop over the bytes from the initial value 0, with its check value. -/
def Obligations.CrcStepIsTableDriven : Prop :=
  (∀ (c : Half) (b : Byte), crcUpdate c b = (c >>> 8) ^^^ crcUpdate 0 (c.extractLsb' 0 8 ^^^ b)) ∧
  (crcUpdate 0 0x01 = 0xC0C1 ∧ crcUpdate 0 0x02 = 0xC181 ∧ crcUpdate 0 0x04 = 0xC301 ∧ crcUpdate 0 0x08 = 0xC601 ∧
    crcUpdate 0 0x10 = 0xCC01 ∧ crcUpdate 0 0x20 = 0xD801 ∧ crcUpdate 0 0x40 = 0xF001 ∧ crcUpdate 0 0x80 = 0xA001 ∧
    crcUpdate 0 0x00 = 0x0000 ∧ crcUpdate 0 0xFF = 0x4040) ∧
  (∀ a b : Byte, crcUpdate 0 (a ^^^ b) = crcUpdate 0 a ^^^ crcUpdate 0 b) ∧
  crc16 [] = 0x0000 ∧ (∀ (xs : List Byte) (b : Byte), crc16 (xs ++ [b]) = crcUpdate (crc16 xs) b) ∧
  crc16 [0x31, 0x32, 0x33, 0x34, 0x35, 0x36, 0x37, 0x38, 0x39] = 0xBB3D

/-- R154: one flipped bit always changes the check value. -/
def Obligations.SingleBitFlipsChangeTheCheckValue : Prop :=
  ∀ (k : ChkKind) (pre post : List Byte) (b : Byte) (j : Nat), j < 8 →
    chk k (pre ++ (b ^^^ (1#8 <<< j)) :: post) ≠ chk k (pre ++ b :: post)

/-- R152 with R150 and R147: the check bytes, the CRC low byte first. -/
def Obligations.CheckCommandsWriteTheCheckValue : Prop :=
  ∀ (s : State) (xs : List Byte), inputBytes s = some xs →
    (∃ t, exec .chkBcc s = .next t ∧ t.outLen = 1 ∧ readByte t.mem 0x20000 = some (bcc xs) ∧
      t.resCode = .ok ∧ t.resVok = false) ∧
    ∃ t, exec .chkCrc s = .next t ∧ t.outLen = 2 ∧
      readByte t.mem 0x20000 = some ((crc16 xs).extractLsb' 0 8) ∧
      readByte t.mem 0x20001 = some ((crc16 xs).extractLsb' 8 8) ∧ t.resCode = .ok ∧ t.resVok = false

/-- R153 with R151: E_SHORT, or OK with VOK telling whether the last bytes of the input are the check value of the others. -/
def Obligations.VerifyCommandsCompareTheCheckBytes : Prop :=
  ∀ s : State,
    (s.inLen.toNat < 1 → exec .verifyBcc s = .next { s with resCode := .short, resVok := false }) ∧
    (s.inLen.toNat < 2 → exec .verifyCrc s = .next { s with resCode := .short, resVok := false }) ∧
    (∀ (body : List Byte) (c : Byte), inputBytes s = some (body ++ [c]) →
      exec .verifyBcc s = .next { s with resCode := .ok, resVok := decide (c = bcc body) }) ∧
    ∀ (body : List Byte) (c d : Byte), inputBytes s = some (body ++ [c, d]) →
      exec .verifyCrc s = .next { s with
        resCode := .ok
        resVok := decide (c = (crc16 body).extractLsb' 0 8 ∧ d = (crc16 body).extractLsb' 8 8) }

/-! ## Frames -/

/-- R172 with R170, R93 and R94: when a frame is refused, its layout, its length and the bound of its length. -/
def Obligations.EncodedFrameLayoutAndLength : Prop :=
  ∀ (maxInterior : Nat) (src dst : Byte) (body : List Byte) (k : ChkKind),
    (maxInterior < body.length + 2 → encodeFrame maxInterior src dst body k = none) ∧
    (body.length + 2 ≤ maxInterior → ∃ f, encodeFrame maxInterior src dst body k = some f ∧
      f = [0x10, 0x02] ++ stuff (dst :: src :: body) ++ [0x10, 0x03] ++ chk k (dst :: src :: body) ∧
      f.length = 6 + body.length + (dst :: src :: body).count 0x10#8 + (match k with | .bcc => 1 | .crc => 2) ∧
      f.length ≤ 2 * maxInterior + 6)

/-- R179: decoding an encoded frame, whatever follows it, gives back what was encoded. -/
def Obligations.DecodeOfEncodedFrame : Prop :=
  ∀ (maxInterior : Nat) (src dst : Byte) (body f e : List Byte) (k : ChkKind),
    encodeFrame maxInterior src dst body k = some f →
      decodeFrame maxInterior k (f ++ e) = .ok f.length dst src body

/-- R177: a decode that is not INCOMPLETE does not depend on what follows, and one that is can be completed. -/
def Obligations.DecodingIsResumable : Prop :=
  ∀ (maxInterior : Nat) (k : ChkKind) (b : List Byte),
    (decodeFrame maxInterior k b ≠ .incomplete →
      ∀ e, decodeFrame maxInterior k (b ++ e) = decodeFrame maxInterior k b) ∧
    (decodeFrame maxInterior k b = .incomplete → ∃ e, decodeFrame maxInterior k (b ++ e) ≠ .incomplete)

/-- R176, with R175 and R98: what is consumed is a part of the buffer, nothing exactly when the frame is incomplete; what makes
a decode MALFORMED, by case: the first byte is not DLE, the second not STX, a DLE inside is followed by neither DLE nor ETX, an
interior byte exceeds MAX_INTERIOR, or the interior has fewer than 2 bytes; what makes it CHECKSUM; how much each consumes;
and that OK consumes an encoded frame, the one of the result (the converse of R179). A buffer as long as the longest frame
(R172, R42) is never incomplete. -/
def Obligations.ConsumedBytesAreInTheBuffer : Prop :=
  ∀ (maxInterior : Nat) (k : ChkKind),
    (∀ b : List Byte, (decodeFrame maxInterior k b).used ≤ b.length ∧
      ((decodeFrame maxInterior k b).used = 0 ↔ decodeFrame maxInterior k b = .incomplete) ∧
      (decodeFrame maxInterior k b = .incomplete → b.length < 2 * maxInterior + 6)) ∧
    (∀ (c : Byte) (e : List Byte), c ≠ 0x10 → decodeFrame maxInterior k (c :: e) = .malformed 1) ∧
    (∀ (c : Byte) (e : List Byte), c ≠ 0x02 → decodeFrame maxInterior k (0x10 :: c :: e) = .malformed 2) ∧
    (∀ (xs e : List Byte) (c : Byte), xs.length ≤ maxInterior → c ≠ 0x10 → c ≠ 0x03 →
      decodeFrame maxInterior k ([0x10, 0x02] ++ stuff xs ++ [0x10, c] ++ e) = .malformed ((stuff xs).length + 4)) ∧
    (∀ (xs e : List Byte) (c : Byte), xs.length = maxInterior →
      decodeFrame maxInterior k ([0x10, 0x02] ++ stuff (xs ++ [c]) ++ e) = .malformed ((stuff (xs ++ [c])).length + 2)) ∧
    (∀ xs cs e : List Byte, xs.length < 2 → xs.length ≤ maxInterior → cs.length = checkLen k →
      decodeFrame maxInterior k ([0x10, 0x02] ++ stuff xs ++ [0x10, 0x03] ++ cs ++ e) =
        .malformed ((stuff xs).length + 4 + checkLen k)) ∧
    (∀ xs cs e : List Byte, 2 ≤ xs.length → xs.length ≤ maxInterior → cs.length = checkLen k → cs ≠ chk k xs →
      decodeFrame maxInterior k ([0x10, 0x02] ++ stuff xs ++ [0x10, 0x03] ++ cs ++ e) =
        .checksum ((stuff xs).length + 4 + checkLen k)) ∧
    ∀ (b body : List Byte) (used : Nat) (dst src : Byte), decodeFrame maxInterior k b = .ok used dst src body →
      encodeFrame maxInterior src dst body k = some (b.take used)

/-- R180: a frame decoded with the other kind, where the check bytes agree and where they do not. -/
def Obligations.KindMismatch : Prop :=
  ∀ (maxInterior : Nat) (src dst : Byte) (body f : List Byte),
    (encodeFrame maxInterior src dst body .bcc = some f →
      decodeFrame maxInterior .crc f = .incomplete ∧
      ∀ (x : Byte) (e : List Byte), decodeFrame maxInterior .crc (f ++ x :: e) =
        if [bcc (dst :: src :: body), x] = chk .crc (dst :: src :: body) then .ok (f.length + 1) dst src body
        else .checksum (f.length + 1)) ∧
    (encodeFrame maxInterior src dst body .crc = some f →
      decodeFrame maxInterior .bcc f =
        if (crc16 (dst :: src :: body)).extractLsb' 0 8 = bcc (dst :: src :: body) then .ok (f.length - 1) dst src body
        else .checksum (f.length - 1))

/-- R171. OUT_LEN takes the length truncated to its 16 bits (R9): only a frame of 65536 bytes, which needs MAX_INTERIOR 32765,
does not fit (log 15). -/
def Obligations.EncodeCommandsWriteTheFrame : Prop :=
  ∀ (s : State) (k : ChkKind), Inv s →
    (s.params.maxInterior < s.inLen.toNat + 2 →
      exec (match k with | .bcc => .encodeBcc | .crc => .encodeCrc) s =
        .next { s with outLen := 0, resCode := .tooLong, resVok := false }) ∧
    (∀ body, s.inLen.toNat + 2 ≤ s.params.maxInterior → inputBytes s = some body →
      ∃ t f, exec (match k with | .bcc => .encodeBcc | .crc => .encodeCrc) s = .next t ∧
        encodeFrame s.params.maxInterior s.addrSrc s.addrDst body k = some f ∧ t.outLen.toNat = f.length % 65536 ∧
        readBytes t.mem 0x20000 f.length = some f ∧ t.resCode = .ok ∧ t.resVok = false)

/-- R178. -/
def Obligations.DecodeCommandsReportTheFrame : Prop :=
  ∀ (s : State) (k : ChkKind) (buf : List Byte), Inv s → inputBytes s = some buf →
    ∃ t, exec (match k with | .bcc => .decodeBcc | .crc => .decodeCrc) s = .next t ∧ t.resVok = false ∧
      t.decConsumed.toNat = (decodeFrame s.params.maxInterior k buf).used ∧
      match decodeFrame s.params.maxInterior k buf with
      | .ok _ dst src body =>
        t.resCode = .ok ∧ t.decDst = dst ∧ t.decSrc = src ∧ t.outLen.toNat = body.length ∧
        readBytes t.mem 0x20000 body.length = some body
      | .incomplete => t.resCode = .incomplete ∧ t.decDst = 0 ∧ t.decSrc = 0 ∧ t.outLen = 0 ∧ SameBytes s t
      | .malformed _ => t.resCode = .malformed ∧ t.decDst = 0 ∧ t.decSrc = 0 ∧ t.outLen = 0 ∧ SameBytes s t
      | .checksum _ => t.resCode = .checksum ∧ t.decDst = 0 ∧ t.decSrc = 0 ∧ t.outLen = 0 ∧ SameBytes s t

/-- The frame of the ten codec commands: each stores only its output, from the start of OUT_BUF (VERIFY nothing), and leaves
the transaction, the host's registers and, but for DECODE, DEC_INFO alone. -/
def Obligations.CodecCommandsFrame : Prop :=
  ∀ (i : Instr) (s t : State), isCodec i = true → exec i s = .next t →
    SameTransaction s t ∧ SameSetup s t ∧ SameBytesOutside 0x20000 (storedBytes i s).length s t ∧
    (i ≠ .decodeBcc → i ≠ .decodeCrc → SameDecInfo s t) ∧
    (i = .verifyBcc ∨ i = .verifyCrc → SameBytes s t ∧ t.outLen = s.outLen)

/-- R237: a codec command neither reads nor writes the transaction: with another transaction in its place it does the same to
the rest, and leaves that transaction alone. -/
def Obligations.CodecCommandsIgnoreTheTransaction : Prop :=
  ∀ (i : Instr) (u s : State), isCodec i = true →
    (∀ t, exec i s = .next t → exec i (withTransactionOf u s) = .next (withTransactionOf u t) ∧ SameTransaction s t) ∧
    (∀ f, exec i s = .fault f → exec i (withTransactionOf u s) = .fault f)

/-! ## Transactions -/

/-- R220 with R48 and R221: the checks of SEND in their order. -/
def Obligations.SendChecksInOrder : Prop :=
  ∀ s : State,
    let busy := s.tmState = .awaitAck ∨ s.tmState = .awaitReply
    let legal := 1 ≤ s.maxRetries.toNat ∧ 1 ≤ s.ackTo.toNat ∧ s.ackTo.toNat < s.replyTo.toNat
    (busy → exec .send s = .next { s with resCode := .busy, resVok := false }) ∧
    (¬busy → ¬legal → exec .send s = .next { s with resCode := .config, resVok := false }) ∧
    (¬busy → legal → s.inLen.toNat < 4 → exec .send s = .next { s with resCode := .short, resVok := false }) ∧
    (¬busy → legal → 4 ≤ s.inLen.toNat → s.params.maxInterior < s.inLen.toNat + 2 →
      exec .send s = .next { s with resCode := .tooLong, resVok := false })

/-- R222 with R223: an accepted SEND. -/
def Obligations.AcceptedSendStartsATransaction : Prop :=
  ∀ (s : State) (xs : List Byte),
    s.tmState ≠ .awaitAck → s.tmState ≠ .awaitReply → cfgOk s = true → 4 ≤ s.inLen.toNat →
    s.inLen.toNat + 2 ≤ s.params.maxInterior → inputBytes s = some xs →
    ∃ t f, exec .send s = .next t ∧
      encodeFrame s.params.maxInterior s.addrSrc s.addrDst
        ((xs.set 2 (s.tnsNext.extractLsb' 0 8)).set 3 (s.tnsNext.extractLsb' 8 8)) s.chkKind = some f ∧
      t = { s with
        tnsNext := s.tnsNext + 1, tnsCur := s.tnsNext, txFrame := f, rx := [], txs := s.txs ++ f, retryCount := 1
        tmState := .awaitAck, timer := s.ackTo, fail := .none, staleSeen := false, replySts := 0, replyDst := 0
        replySrc := 0, replyLen := 0, resCode := .ok, resVok := false }

/-- R222: the host's bytes 2 and 3 of the body are ignored (that they need not even have been written is log 3). -/
def Obligations.SendIgnoresTheHostsTnsBytes : Prop :=
  ∀ (s : State) (b c : Byte), sendRefusal s = none →
    (∀ t, exec .send s = .next t →
      exec .send { s with mem := writeBytes s.mem 0x10002 [b, c] } =
        .next { t with mem := writeBytes t.mem 0x10002 [b, c] })

/-- R223: TNS_NEXT and TNS_CUR move at an accepted SEND, are reset by RESET, and change at no other step. -/
def Obligations.TnsAdvancesAtAcceptedSendsOnly : Prop :=
  ∀ s t : State, step s = .next t →
    if fetch s = .run .reset then t.tnsNext = s.params.tnsReset ∧ t.tnsCur = 0
    else if fetch s = .run .send ∧ sendRefusal s = none then t.tnsNext = s.tnsNext + 1 ∧ t.tnsCur = s.tnsNext
    else t.tnsNext = s.tnsNext ∧ t.tnsCur = s.tnsCur

/-- R233. -/
def Obligations.CancelEndsTheTransaction : Prop :=
  ∀ s : State, exec .cancel s = .next { s with
    rx := [], tmState := .idle, timer := 0, fail := .none, resCode := .ok, resVok := false }

/-- R215 with R210 and R211: what a TICK does. -/
def Obligations.TickCountsDownAndFailsTheAttempt : Prop :=
  ∀ s : State,
    (s.tmState ≠ .awaitAck → s.tmState ≠ .awaitReply → exec .tick s = .next s) ∧
    (s.tmState = .awaitAck ∨ s.tmState = .awaitReply →
      (2 ≤ s.timer.toNat → exec .tick s = .next { s with timer := s.timer - 1 }) ∧
      (s.timer = 1 → s.retryCount.toNat < s.maxRetries.toNat → exec .tick s = .next { s with
        rx := [], txs := s.txs ++ s.txFrame, retryCount := s.retryCount + 1, tmState := .awaitAck, timer := s.ackTo }) ∧
      (s.timer = 1 → s.maxRetries.toNat ≤ s.retryCount.toNat → exec .tick s = .next { s with
        rx := [], tmState := .failed, timer := 0, fail := if s.tmState = .awaitAck then .noAck else .noReply }))

/-- R219 with R210: a byte received in AWAIT_ACK. -/
def Obligations.ByteInAckWait : Prop :=
  ∀ (s : State) (b : Byte), s.tmState = .awaitAck → s.rx = [] →
    (b = 0x06 → exec (.rx b) s = .next { s with tmState := .awaitReply, timer := s.replyTo }) ∧
    (b ≠ 0x06 → s.retryCount.toNat < s.maxRetries.toNat → exec (.rx b) s = .next { s with
      txs := s.txs ++ s.txFrame, retryCount := s.retryCount + 1, timer := s.ackTo }) ∧
    (b ≠ 0x06 → s.maxRetries.toNat ≤ s.retryCount.toNat → exec (.rx b) s = .next { s with
      tmState := .failed, timer := 0, fail := .noAck })

/-- R226: in AWAIT_REPLY a handshake byte between frames is dropped, and the bytes of an incomplete frame are kept. -/
def Obligations.HandshakeAndPartialFrameInReplyWait : Prop :=
  ∀ (s : State) (b : Byte), s.tmState = .awaitReply →
    (s.rx = [] → b = 0x06 ∨ b = 0x15 ∨ b = 0x05 → exec (.rx b) s = .next s) ∧
    (decodeFrame s.params.maxInterior s.chkKind (s.rx ++ [b]) = .incomplete →
      exec (.rx b) s = .next { s with rx := s.rx ++ [b] })

/-- R231 with R210: a malformed reply or a checksum mismatch fails the attempt at the reply stage. -/
def Obligations.BadReplyFailsTheAttempt : Prop :=
  ∀ (s : State) (b : Byte) (used : Nat), Inv s → s.tmState = .awaitReply →
    (s.rx = [] → b ≠ 0x06 ∧ b ≠ 0x15 ∧ b ≠ 0x05) →
    decodeFrame s.params.maxInterior s.chkKind (s.rx ++ [b]) = .malformed used ∨
      decodeFrame s.params.maxInterior s.chkKind (s.rx ++ [b]) = .checksum used →
    (s.retryCount.toNat < s.maxRetries.toNat → exec (.rx b) s = .next { s with
      rx := [], txs := s.txs ++ s.txFrame, retryCount := s.retryCount + 1, tmState := .awaitAck, timer := s.ackTo }) ∧
    (s.maxRetries.toNat ≤ s.retryCount.toNat → exec (.rx b) s = .next { s with
      rx := [], tmState := .failed, timer := 0, fail := .noReply })

/-- R228 with R212 and R227: a correlating reply is acknowledged and ends the transaction, whatever its status. -/
def Obligations.CorrelatingReplyMatches : Prop :=
  ∀ (s : State) (b : Byte) (used : Nat) (dst src c0 c1 c2 c3 : Byte) (rest : List Byte), Inv s → s.tmState = .awaitReply →
    decodeFrame s.params.maxInterior s.chkKind (s.rx ++ [b]) = .ok used dst src (c0 :: c1 :: c2 :: c3 :: rest) →
    c2.toNat + 256 * c3.toNat = s.tnsCur.toNat →
    ∃ t, exec (.rx b) s = .next t ∧ t.tmState = .matched ∧ t.timer = 0 ∧ t.rx = [] ∧ t.txs = s.txs ++ [0x06] ∧
      t.replySts = c1 ∧ t.replyDst = dst ∧ t.replySrc = src ∧ t.replyLen.toNat = rest.length + 4 ∧
      readBytes t.mem 0x30000 (rest.length + 4) = some (c0 :: c1 :: c2 :: c3 :: rest) ∧
      SameBytesOutside 0x30000 (rest.length + 4) s t ∧ SameSetup s t ∧ SameResults s t ∧ t.txFrame = s.txFrame ∧
      t.fail = s.fail ∧ t.staleSeen = s.staleSeen ∧ t.retryCount = s.retryCount ∧ t.tnsCur = s.tnsCur ∧
      t.tnsNext = s.tnsNext

/-- R229 and R235: a checksum-valid frame that does not correlate is acknowledged and discarded. -/
def Obligations.StaleReplyIsDiscarded : Prop :=
  ∀ (s : State) (b : Byte) (used : Nat) (dst src : Byte) (body : List Byte), Inv s → s.tmState = .awaitReply →
    decodeFrame s.params.maxInterior s.chkKind (s.rx ++ [b]) = .ok used dst src body →
    (body.length < 4 ∨ (body.getD 2 0).toNat + 256 * (body.getD 3 0).toNat ≠ s.tnsCur.toNat) →
    exec (.rx b) s = .next { s with rx := [], txs := s.txs ++ [0x06], staleSeen := true }

/-- R232 and R239: outside a wait, a byte and a TICK change nothing. -/
def Obligations.BytesAndTicksOutsideAWaitAreIgnored : Prop :=
  ∀ (s : State) (b : Byte), s.tmState = .idle ∨ s.tmState = .matched ∨ s.tmState = .failed →
    exec (.rx b) s = .next s ∧ exec .tick s = .next s

/-- R200: the transitions of the state machine, and no others. The byte received is an RX's, or the first of a wire token
(log 7). -/
def Obligations.StateChangesOnlyAsTheTableSays : Prop :=
  ∀ (i : Instr) (s t : State), Inv s → exec i s = .next t →
    t.tmState = s.tmState ∨
    (i = .send ∧ s.tmState ≠ .awaitAck ∧ s.tmState ≠ .awaitReply ∧ t.tmState = .awaitAck ∧ t.resCode = .ok) ∨
    (receivedByte i = some 0x06 ∧ s.tmState = .awaitAck ∧ t.tmState = .awaitReply) ∨
    ((i = .tick ∨ ∃ b, b ≠ 0x06 ∧ receivedByte i = some b) ∧ s.tmState = .awaitAck ∧ t.tmState = .failed ∧
      t.fail = .noAck) ∨
    ((i = .tick ∨ ∃ b, receivedByte i = some b) ∧ s.tmState = .awaitReply ∧
      (t.tmState = .awaitAck ∧ t.retryCount = s.retryCount + 1 ∨ t.tmState = .failed ∧ t.fail = .noReply)) ∨
    ((∃ b, receivedByte i = some b) ∧ s.tmState = .awaitReply ∧ t.tmState = .matched) ∨
    (i = .cancel ∧ t.tmState = .idle) ∨
    (i = .reset ∧ t.tmState = .idle)

/-- R238: what the block transmits. RESET alone empties the stream (R290). -/
def Obligations.OnlyFramesAndAcksAreTransmitted : Prop :=
  ∀ s t : State, step s = .next t → fetch s ≠ .run .reset →
    ∃ pieces : List (List Byte), t.txs = s.txs ++ pieces.flatten ∧ ∀ p ∈ pieces, p = t.txFrame ∨ p = [0x06]

/-- R234: without an ACK a transaction ends in FAILED, NO_ACK, after exactly MAX_RETRIES attempts; with no byte received, at
exactly the MAX_RETRIES · ACK_TO-th TICK. -/
def Obligations.RetryBoundWithoutAck : Prop :=
  ∀ (s u : State), Inv s → exec .send s = .next u → u.resCode = .ok →
    (∀ events : List Instr, (∀ e ∈ events, e = .tick ∨ ∃ b, b ≠ 0x06#8 ∧ e = .rx b) →
      ∃ t, runAll events u = .next t ∧
        (t.tmState = .awaitAck ∨
          (t.tmState = .failed ∧ t.fail = .noAck ∧ t.retryCount = s.maxRetries ∧
            t.txs = s.txs ++ (List.replicate s.maxRetries.toNat u.txFrame).flatten)) ∧
        (s.maxRetries.toNat * s.ackTo.toNat ≤ events.count .tick → t.tmState = .failed)) ∧
    (∀ n t, runAll (List.replicate n .tick) u = .next t →
      (t.tmState = .failed ↔ s.maxRetries.toNat * s.ackTo.toNat ≤ n))

/-- R303: each byte before the ACK costs an attempt, and each attempt is one copy of the frame. -/
def Obligations.BytesBeforeTheAckCostAttempts : Prop :=
  ∀ (s u : State) (bytes : List Byte), Inv s → exec .send s = .next u → u.resCode = .ok → (∀ b ∈ bytes, b ≠ 0x06) →
    ∃ t, runAll (bytes.map .rx) u = .next t ∧ t.rx = [] ∧
      (bytes.length < s.maxRetries.toNat → t.tmState = .awaitAck ∧ t.retryCount.toNat = 1 + bytes.length ∧
        t.txs = s.txs ++ (List.replicate (1 + bytes.length) u.txFrame).flatten) ∧
      (s.maxRetries.toNat ≤ bytes.length → t.tmState = .failed ∧ t.fail = .noAck ∧ t.retryCount = s.maxRetries ∧
        t.txs = s.txs ++ (List.replicate s.maxRetries.toNat u.txFrame).flatten)

/-- R302 and R215: a wait that no byte ends fails at exactly its TIMER-th TICK. -/
def Obligations.WaitFailsAtItsLastTick : Prop :=
  ∀ (s : State), Inv s → s.tmState = .awaitAck ∨ s.tmState = .awaitReply →
    (∀ n, n < s.timer.toNat →
      runAll (List.replicate n .tick) s = .next { s with timer := s.timer - BitVec.ofNat 32 n }) ∧
    (s.retryCount.toNat < s.maxRetries.toNat →
      runAll (List.replicate s.timer.toNat .tick) s = .next { s with
        rx := [], txs := s.txs ++ s.txFrame, retryCount := s.retryCount + 1, tmState := .awaitAck, timer := s.ackTo }) ∧
    (s.maxRetries.toNat ≤ s.retryCount.toNat →
      runAll (List.replicate s.timer.toNat .tick) s = .next { s with
        rx := [], tmState := .failed, timer := 0, fail := if s.tmState = .awaitAck then .noAck else .noReply })

/-- A wire token is received a byte a step (R10, R73, R79, R91, R92): its own step receives its first byte, and the second,
where it has two, is the RX stimulus of the next step, so that a presented token runs as the RX stimuli of its bytes (log 7). -/
def Obligations.WireTokensAreTheirBytes : Prop :=
  ∀ s : State,
    (∃ t, exec (.rx 0x10) s = .next t ∧
      exec .wireStartDelim s = .next { t with inputs := .coded (.stimulus (0b01#2 ++ 0x02#8)) :: s.inputs } ∧
      exec .wireEndDelim s = .next { t with inputs := .coded (.stimulus (0b01#2 ++ 0x03#8)) :: s.inputs } ∧
      exec .wireDleDle s = .next { t with inputs := .coded (.stimulus (0b01#2 ++ 0x10#8)) :: s.inputs }) ∧
    (∃ t, exec (.rx 0x06) s = .next t ∧ exec .wireAck s = .next t) ∧
    (∃ t, exec (.rx 0x15) s = .next t ∧ exec .wireNak s = .next t) ∧
    (∃ t, exec (.rx 0x05) s = .next t ∧ exec .wireEnq s = .next t) ∧
    ∀ (bytes : List Byte) (i : Instr) (rest : List Stimulus), decodeWire bytes = .ok i →
      step { s with inputs := .coded (.wire bytes) :: rest } =
        step { s with inputs := bytes.map (fun b => .coded (.stimulus (0b01#2 ++ b))) ++ rest }

/-- The frame of SEND, CANCEL, the port events and the wire tokens: the host's registers and the codec's results stay (RES is
written by the two commands), the only store is a match's, to REPLY_BUF[0:REPLY_LEN], and the stimuli still to come gain the
bytes of a wire token after its first (log 7). -/
def Obligations.TransactionInstructionsFrame : Prop :=
  ∀ (i : Instr) (s t : State), Inv s → i = .send ∨ i = .cancel ∨ i = .tick ∨ arrivingBytes i ≠ [] → exec i s = .next t →
    SameSetup { s with inputs := t.inputs } t ∧
    t.inputs = (arrivingBytes i).tail.map (fun b => .coded (.stimulus (0b01#2 ++ b))) ++ s.inputs ∧
    t.outLen = s.outLen ∧ SameDecInfo s t ∧
    (i ≠ .send → i ≠ .cancel → SameResults s t ∧ t.txFrame = s.txFrame) ∧
    (s.tmState = .awaitReply ∧ t.tmState = .matched → SameBytesOutside 0x30000 t.replyLen.toNat s t) ∧
    (¬(s.tmState = .awaitReply ∧ t.tmState = .matched) → SameBytes s t)

/-! ## Results, reset and the invariant -/

/-- R261: the result codes each command may write. -/
def Obligations.ResultCodesOfEachCommand : Prop :=
  ∀ (i : Instr) (s t : State), exec i s = .next t →
    (i = .stuff ∨ i = .chkBcc ∨ i = .chkCrc ∨ i = .cancel → t.resCode = .ok) ∧
    (i = .destuff → t.resCode = .ok ∨ t.resCode = .malformed) ∧
    (i = .verifyBcc ∨ i = .verifyCrc → t.resCode = .ok ∨ t.resCode = .short) ∧
    (i = .encodeBcc ∨ i = .encodeCrc → t.resCode = .ok ∨ t.resCode = .tooLong) ∧
    (i = .decodeBcc ∨ i = .decodeCrc →
      t.resCode = .ok ∨ t.resCode = .incomplete ∨ t.resCode = .malformed ∨ t.resCode = .checksum) ∧
    (i = .send → t.resCode = .ok ∨ t.resCode = .busy ∨ t.resCode = .config ∨ t.resCode = .short ∨ t.resCode = .tooLong) ∧
    (∀ code, i = .reserved code → t.resCode = .illegal)

/-- R24: RES.VOK is written by every command, and it is 1 only after a VERIFY whose check values match. -/
def Obligations.VokOnlyAfterAMatchingVerify : Prop :=
  ∀ (i : Instr) (s t : State), exec i s = .next t →
    (i = .verifyBcc ∨ i = .verifyCrc →
      (t.resVok = true ↔ ∃ xs k, k = (if i = .verifyBcc then ChkKind.bcc else ChkKind.crc) ∧
        inputBytes s = some xs ∧ checkLen k ≤ xs.length ∧
        xs.drop (xs.length - checkLen k) = chk k (xs.take (xs.length - checkLen k)))) ∧
    (i ≠ .verifyBcc → i ≠ .verifyCrc → i ≠ .tick → arrivingBytes i = [] → t.resVok = false) ∧
    (i = .tick ∨ arrivingBytes i ≠ [] → t.resVok = s.resVok)

/-- R290: RESET. -/
def Obligations.ResetSetsEveryElement : Prop :=
  ∀ s : State, ∃ t, exec .reset s = .next t ∧
    t.resCode = .ok ∧ t.resVok = false ∧ t.chkKind = .bcc ∧ t.maxRetries = 3 ∧ t.ackTo = 0 ∧ t.replyTo = 0 ∧
    t.addrSrc = 0 ∧ t.addrDst = 0 ∧ t.inLen = 0 ∧ t.outLen = 0 ∧ t.decDst = 0 ∧ t.decSrc = 0 ∧ t.decConsumed = 0 ∧
    t.tmState = .idle ∧ t.fail = .none ∧ t.staleSeen = false ∧ t.retryCount = 0 ∧ t.tnsCur = 0 ∧
    t.tnsNext = s.params.tnsReset ∧ t.timer = 0 ∧ t.replySts = 0 ∧ t.replyDst = 0 ∧ t.replySrc = 0 ∧ t.replyLen = 0 ∧
    t.rx = [] ∧ t.txFrame = [] ∧ t.txs = []

/-- The state after reset meets the invariant; and, by the model's choice, RESET leaves no buffer byte with a value (log 3) and
keeps the instance's parameters and the stimuli still to come (log 14). -/
def Obligations.ResetMeetsTheInvariant : Prop :=
  (∀ p : Params, p.Legal → Inv (State.resetWith p)) ∧ Inv State.reset ∧
  ∀ s t : State, exec .reset s = .next t →
    (∀ a, readByte t.mem a = none) ∧ t.params = s.params ∧ t.inputs = s.inputs

/-- R47, with the bounds it rests on: every step keeps the invariant. -/
def Obligations.EveryStepKeepsTheInvariant : Prop :=
  ∀ s t : State, Inv s → step s = .next t → Inv t
end

