-- ==== Sys2Proof/Laws/Checksum.lean ====
section
/-! SUPPORT. The laws of the two check values: the sum of an append, and that a round of the CRC is linear and injective. -/

namespace Sys2Proof.Machine

theorem byteSum_append (xs ys : List Byte) : byteSum (xs ++ ys) = byteSum xs + byteSum ys := by
  induction xs with
  | nil => simp [byteSum]
  | cons b xs ih => simp [byteSum, ih, BitVec.add_assoc]

/-- The sum of the bytes, modulo 256 (R140). -/
theorem toNat_byteSum (xs : List Byte) : (byteSum xs).toNat = (xs.map BitVec.toNat).sum % 256 := by
  induction xs with
  | nil => rfl
  | cons b xs ih => simp [byteSum, BitVec.toNat_add, ih]

theorem crcRound_eq (c : Half) : crcRound c = (c >>> 1) ^^^ (if c.getLsbD 0 then 0xA001#16 else 0#16) := by
  simp only [crcRound]; split <;> simp

/-- A round is linear over XOR. -/
theorem crcRound_xor (a b : Half) : crcRound (a ^^^ b) = crcRound a ^^^ crcRound b := by
  simp only [crcRound_eq, BitVec.getLsbD_xor, BitVec.ushiftRight_xor_distrib]
  generalize a >>> 1 = x
  generalize b >>> 1 = y
  cases a.getLsbD 0 <;> cases b.getLsbD 0 <;> simp [BitVec.xor_assoc, BitVec.xor_comm y]

/-- Only 0 goes to 0: bit 15 of the result is bit 0 of the argument, since the polynomial has bit 15. -/
theorem crcRound_eq_zero {c : Half} (h : crcRound c = 0) : c = 0 := by
  have h15 := congrArg (fun x : Half => x.getLsbD 15) h
  have h0 : c.getLsbD 0 = false := by
    by_contra h0
    simp only [Bool.not_eq_false] at h0
    simp [crcRound_eq, h0] at h15
  rw [crcRound_eq, h0] at h
  refine BitVec.eq_of_getLsbD_eq fun i _ => ?_
  cases i with
  | zero => simpa using h0
  | succ i =>
    have := congrArg (fun x : Half => x.getLsbD i) h
    simpa [Nat.add_comm] using this

theorem crcRounds_xor (n : Nat) : ∀ a b : Half, crcRounds n (a ^^^ b) = crcRounds n a ^^^ crcRounds n b := by
  induction n with
  | zero => exact fun _ _ => rfl
  | succ n ih => intro a b; simp only [crcRounds, crcRound_xor, ih]

theorem crcRounds_eq_zero (n : Nat) : ∀ c : Half, crcRounds n c = 0 → c = 0 := by
  induction n with
  | zero => exact fun _ h => h
  | succ n ih => exact fun c h => crcRound_eq_zero (ih _ h)

theorem crcRounds_injective (n : Nat) {a b : Half} (h : crcRounds n a = crcRounds n b) : a = b := by
  have : crcRounds n (a ^^^ b) = 0 := by rw [crcRounds_xor, h]; simp
  exact BitVec.xor_eq_zero_iff.mp (crcRounds_eq_zero n _ this)

end Sys2Proof.Machine
end

