-- ==== Sys2Proof/Laws/Stuffing.lean ====
section
/-! SUPPORT. The equations of the stuffer and the destuffer, one per kind of byte: an ordinary byte, a doubled DLE, and a DLE
that no second one follows. -/

namespace Sys2Proof.Machine

@[simp] theorem stuff_nil : stuff [] = [] := rfl

@[simp] theorem stuff_cons_dle (xs : List Byte) : stuff (dle :: xs) = dle :: dle :: stuff xs := by simp [stuff]

theorem stuff_cons_other {b : Byte} (xs : List Byte) (h : b ≠ dle) : stuff (b :: xs) = b :: stuff xs := by
  simp [stuff, h]

@[simp] theorem destuff_nil : destuff [] = some [] := rfl

@[simp] theorem destuff_dle_dle (ys : List Byte) : destuff (dle :: dle :: ys) = (destuff ys).map (dle :: ·) := by
  simp [destuff]

theorem destuff_cons_other {b : Byte} (ys : List Byte) (h : b ≠ dle) :
    destuff (b :: ys) = (destuff ys).map (b :: ·) := by
  cases ys <;> simp [destuff, h]

@[simp] theorem destuff_lone_dle : destuff [dle] = none := by simp [destuff]

theorem destuff_dle_other {c : Byte} (ys : List Byte) (h : c ≠ dle) : destuff (dle :: c :: ys) = none := by
  simp [destuff, h]

/-- A destuffed buffer is no longer than the buffer. -/
theorem length_destuff_le (ys : List Byte) : ∀ xs, destuff ys = some xs → xs.length ≤ ys.length := by
  induction ys using destuff.induct with
  | case1 => rintro xs ⟨⟩; simp
  | case2 => simp
  | case3 b h => rintro xs hx; rw [destuff_cons_other [] h] at hx; simp at hx; simp [← hx]
  | case4 ys ih =>
    intro xs hx
    simp only [destuff_dle_dle, Option.map_eq_some_iff] at hx
    obtain ⟨zs, hz, rfl⟩ := hx
    have := ih zs hz; simp; omega
  | case5 c ys h' => intro xs hx; rw [destuff_dle_other ys h'] at hx; cases hx
  | case6 b c ys h ih =>
    intro xs hx
    rw [destuff_cons_other _ h, Option.map_eq_some_iff] at hx
    obtain ⟨zs, hz, rfl⟩ := hx
    have := ih zs hz; simp at this ⊢; omega

/-- Stuffing at most doubles a buffer. -/
theorem length_stuff_le (xs : List Byte) : (stuff xs).length ≤ 2 * xs.length := by
  induction xs with
  | nil => simp
  | cons b xs ih => simp only [stuff]; split <;> simp <;> omega

end Sys2Proof.Machine
end

