-- ==== Sys2Proof/Laws/FrameCodec.lean ====
section
/-! SUPPORT. The equations of the decoder's scan (R175), one per kind of byte, and what a scan says of the bytes it read. -/

namespace Sys2Proof.Machine

@[simp] theorem length_chk (k : ChkKind) (xs : List Byte) : (chk k xs).length = checkLen k := by cases k <;> rfl

theorem checkLen_pos (k : ChkKind) : 0 < checkLen k := by cases k <;> decide

theorem checkLen_le (k : ChkKind) : checkLen k ≤ 2 := by cases k <;> decide

@[simp] theorem length_frameOf (k : ChkKind) (interior : List Byte) :
    (frameOf k interior).length = 4 + (stuff interior).length + checkLen k := by
  simp [frameOf]; omega

@[simp] theorem scan_nil (m i : Nat) (acc : List Byte) : scan m [] i acc = .incomplete := rfl

@[simp] theorem scan_lone_dle (m i : Nat) (acc : List Byte) : scan m [dle] i acc = .incomplete := by simp [scan]

@[simp] theorem scan_dle_dle (m : Nat) (ys : List Byte) (i : Nat) (acc : List Byte) :
    scan m (dle :: dle :: ys) i acc =
      if m < acc.length + 1 then .malformed (i + 2) else scan m ys (i + 2) (acc ++ [dle]) := by
  simp [scan]

@[simp] theorem scan_dle_etx (m : Nat) (ys : List Byte) (i : Nat) (acc : List Byte) :
    scan m (dle :: etx :: ys) i acc = .complete (i + 2) acc ys := by
  have : etx ≠ dle := by decide
  simp [scan, this]

theorem scan_dle_other (m : Nat) {c : Byte} (ys : List Byte) (i : Nat) (acc : List Byte) (h : c ≠ dle) (h' : c ≠ etx) :
    scan m (dle :: c :: ys) i acc = .malformed (i + 2) := by
  simp [scan, h, h']

theorem scan_other (m : Nat) {b : Byte} (ys : List Byte) (i : Nat) (acc : List Byte) (h : b ≠ dle) :
    scan m (b :: ys) i acc = if m < acc.length + 1 then .malformed (i + 1) else scan m ys (i + 1) (acc ++ [b]) := by
  cases ys <;> simp [scan, h]

/-- What a scan has seen by kinds of bytes: the case analysis every fact about `scan` follows. -/
theorem scan_induction {motive : List Byte → Prop} (nil : motive []) (lone : motive [dle])
    (doubled : ∀ ys, motive ys → motive (dle :: dle :: ys)) (delim : ∀ ys, motive (dle :: etx :: ys))
    (unpaired : ∀ c ys, c ≠ dle → c ≠ etx → motive (dle :: c :: ys))
    (other : ∀ b ys, b ≠ dle → motive ys → motive (b :: ys)) : ∀ ys, motive ys
  | [] => nil
  | [b] => if h : b = dle then h ▸ lone else other b [] h nil
  | b :: c :: ys => by
    by_cases h : b = dle
    · subst h
      by_cases hc : c = dle
      · subst hc
        exact doubled ys (scan_induction nil lone doubled delim unpaired other ys)
      · by_cases he : c = etx
        · subst he; exact delim ys
        · exact unpaired c ys hc he
    · exact other b _ h (scan_induction nil lone doubled delim unpaired other (c :: ys))

/-- What the end of a scan of `ys`, from index `i` with `acc` found so far, says: the indices it gives lie in the buffer, and
the interior it gives is within MAX_INTERIOR and no longer than the bytes read. -/
theorem scan_spec (m : Nat) (ys : List Byte) : ∀ (i : Nat) (acc : List Byte), acc.length ≤ m →
    match scan m ys i acc with
    | .incomplete => ys.length ≤ 2 * (m - acc.length) + 1
    | .malformed used => i < used ∧ used ≤ i + ys.length
    | .complete j interior rest =>
      i + 2 ≤ j ∧ j + rest.length = i + ys.length ∧ acc.length ≤ interior.length ∧ interior.length ≤ m ∧
        interior.length - acc.length ≤ j - 2 - i ∧ j - 2 - i ≤ 2 * (interior.length - acc.length) := by
  induction ys using scan_induction with
  | nil => simp
  | lone => simp
  | doubled ys ih =>
    intro i acc h
    by_cases hm : m < acc.length + 1
    · simp [hm]
    · have := ih (i + 2) (acc ++ [dle]) (by simp; omega)
      simp only [scan_dle_dle, if_neg hm]
      revert this
      cases scan m ys (i + 2) (acc ++ [dle]) <;> simp only [List.length_cons, List.length_append, List.length_nil] <;> omega
  | delim ys => intro i acc h; simp; omega
  | unpaired c ys h h' => intro i acc _; rw [scan_dle_other m ys i acc h h']; simp
  | other b ys hb ih =>
    intro i acc h
    by_cases hm : m < acc.length + 1
    · simp [scan_other m ys i acc hb, hm]
    · have := ih (i + 1) (acc ++ [b]) (by simp; omega)
      simp only [scan_other m ys i acc hb, if_neg hm]
      revert this
      cases scan m ys (i + 1) (acc ++ [b]) <;> simp only [List.length_cons, List.length_append, List.length_nil] <;> omega

/-- A scan that has ended does not depend on the bytes after its end. -/
theorem scan_append (m : Nat) (ys e : List Byte) : ∀ (i : Nat) (acc : List Byte),
    match scan m ys i acc with
    | .incomplete => True
    | .malformed used => scan m (ys ++ e) i acc = .malformed used
    | .complete j interior rest => scan m (ys ++ e) i acc = .complete j interior (rest ++ e) := by
  induction ys using scan_induction with
  | nil => simp
  | lone => simp
  | doubled ys ih =>
    intro i acc
    simp only [List.cons_append, scan_dle_dle]
    by_cases hm : m < acc.length + 1
    · simp only [if_pos hm]
    · simp only [if_neg hm]; exact ih _ _
  | delim ys => simp
  | unpaired c ys h h' => intro i acc; simp [scan_dle_other m _ i acc h h']
  | other b ys hb ih =>
    intro i acc
    simp only [List.cons_append, scan_other m _ i acc hb]
    by_cases hm : m < acc.length + 1
    · simp only [if_pos hm]
    · simp only [if_neg hm]; exact ih _ _

/-- The scan of a stuffed interior finds it. -/
theorem scan_stuff (m : Nat) (xs rest : List Byte) : ∀ (i : Nat) (acc : List Byte), acc.length + xs.length ≤ m →
    scan m (stuff xs ++ dle :: etx :: rest) i acc = .complete (i + (stuff xs).length + 2) (acc ++ xs) rest := by
  induction xs with
  | nil => simp
  | cons b xs ih =>
    intro i acc h
    simp only [List.length_cons] at h
    by_cases hb : b = dle
    · subst hb
      rw [stuff_cons_dle, List.cons_append, List.cons_append, scan_dle_dle, if_neg (by omega),
        ih _ _ (by simp; omega)]
      simp; omega
    · rw [stuff_cons_other xs hb, List.cons_append, scan_other m _ _ _ hb, if_neg (by omega), ih _ _ (by simp; omega)]
      simp; omega

end Sys2Proof.Machine
end

