-- ==== Sys2Proof/Laws/HostBus.lean ====
section
/-! SUPPORT. Where a block-relative address lies (R61, R62), said by its bounds. -/

namespace Sys2Proof.Machine

theorem placeOf_register {p : Params} {a : Nat} : placeOf p a = .register ↔ a < 0x40 := by
  grind [placeOf]

theorem placeOf_inBuf {p : Params} {a : Nat} : placeOf p a = .inBuf ↔ 0x10000 ≤ a ∧ a < 0x10000 + p.bufSize := by
  grind [placeOf, inBufBase]

theorem placeOf_outBuf {p : Params} (h : p.Legal) {a : Nat} :
    placeOf p a = .outBuf ↔ 0x20000 ≤ a ∧ a < 0x20000 + (2 * p.bufSize + 6) := by
  grind [placeOf, inBufBase, outBufBase, outCap]

theorem placeOf_replyBuf {p : Params} (h : p.Legal) {a : Nat} :
    placeOf p a = .replyBuf ↔ 0x30000 ≤ a ∧ a < 0x30000 + (p.maxInterior - 2) := by
  grind [placeOf, inBufBase, outBufBase, replyBufBase, outCap, replyCap]

theorem placeOf_nowhere {p : Params} (h : p.Legal) {a : Nat} :
    placeOf p a = .nowhere ↔ 0x40 ≤ a ∧ ¬(0x10000 ≤ a ∧ a < 0x10000 + p.bufSize) ∧
      ¬(0x20000 ≤ a ∧ a < 0x20000 + (2 * p.bufSize + 6)) ∧ ¬(0x30000 ≤ a ∧ a < 0x30000 + (p.maxInterior - 2)) := by
  have h1 := @placeOf_register p a
  have h2 := @placeOf_inBuf p a
  have h3 := @placeOf_outBuf p h a
  have h4 := @placeOf_replyBuf p h a
  rw [← h2, ← h3, ← h4, ← Nat.not_lt, ← h1]
  cases placeOf p a <;> simp

/-- R63: a register access is no error exactly when it is an aligned 32-bit access. -/
theorem accessErrorOf_of_register {p : Params} {a n : Nat} (h : placeOf p a = .register) :
    accessErrorOf p a n = none ↔ n = 4 ∧ a % 4 = 0 := by
  simp only [accessErrorOf, h]; split <;> (try split) <;> simp_all

/-- R65. -/
theorem accessErrorOf_of_nowhere {p : Params} {a n : Nat} (h : placeOf p a = .nowhere) :
    accessErrorOf p a n = some .unmapped := by
  simp only [accessErrorOf, h]

/-- R64: a buffer access is no error exactly when it is a byte, or an aligned word all in that buffer. -/
theorem accessErrorOf_of_buffer {p : Params} {a n : Nat} (h : placeOf p a ≠ .register) (h' : placeOf p a ≠ .nowhere) :
    accessErrorOf p a n = none ↔ n = 1 ∨ (n = 4 ∧ a % 4 = 0 ∧ placeOf p (a + 3) = placeOf p a) := by
  simp only [accessErrorOf]
  cases hw : placeOf p a <;> simp only [hw] at * <;> grind

/-- R62: the buffer addresses. -/
theorem isBufferAddress_iff {p : Params} (h : p.Legal) {a : Nat} : isBufferAddress p a = true ↔
    (0x10000 ≤ a ∧ a < 0x10000 + p.bufSize) ∨ (0x20000 ≤ a ∧ a < 0x20000 + (2 * p.bufSize + 6)) ∨
      (0x30000 ≤ a ∧ a < 0x30000 + (p.maxInterior - 2)) := by
  simp only [isBufferAddress, Bool.or_eq_true, decide_eq_true_eq, placeOf_inBuf, placeOf_outBuf h, placeOf_replyBuf h, or_assoc]

end Sys2Proof.Machine
end

