-- ==== Sys2Proof/Laws/Memory.lean ====
section
/-! SUPPORT. The laws of the buffers' memory: a read after a write, what a write leaves alone, and that every write keeps the
canonical form. -/

namespace Sys2Proof.Machine

@[simp] theorem readByte_writeByte_same (m : Memory) (a : Nat) (b : Byte) : readByte (writeByte m a b) a = some b := by
  induction m with
  | nil => simp [writeByte, readByte]
  | cons x m ih =>
    obtain ⟨k, c⟩ := x
    simp only [writeByte]
    split
    · simp [readByte]
    · split
      · simp [readByte]
      · next h => simp [readByte, ih, Ne.symm h]

theorem readByte_writeByte_other (m : Memory) {a c : Nat} (b : Byte) (h : c ≠ a) :
    readByte (writeByte m a b) c = readByte m c := by
  induction m with
  | nil => simp [writeByte, readByte, Ne.symm h]
  | cons x m ih =>
    obtain ⟨k, d⟩ := x
    simp only [writeByte]
    split
    · simp [readByte, Ne.symm h]
    · split
      · next h' => subst h'; simp [readByte, Ne.symm h]
      · simp [readByte, ih]

/-- The addresses a write lists are those listed before and the one written. -/
theorem mem_writeByte {m : Memory} {a : Nat} {b : Byte} {x : Host.Cell} (h : x ∈ writeByte m a b) :
    x = (a, b) ∨ x ∈ m := by
  induction m with
  | nil => simpa [writeByte] using h
  | cons y m ih =>
    obtain ⟨k, c⟩ := y
    simp only [writeByte] at h
    split at h
    · simpa using h
    · split at h
      · rcases List.mem_cons.mp h with h | h
        · exact .inl h
        · exact .inr (List.mem_cons_of_mem _ h)
      · rcases List.mem_cons.mp h with h | h
        · exact .inr (h ▸ List.mem_cons_self)
        · exact (ih h).imp_right (List.mem_cons_of_mem _)

theorem writeByte_wf {m : Memory} (a : Nat) (b : Byte) (h : m.wf) : (writeByte m a b).wf := by
  induction m with
  | nil => simp [writeByte, Memory.wf]
  | cons y m ih =>
    obtain ⟨k, c⟩ := y
    obtain ⟨hk, hm⟩ := List.pairwise_cons.mp h
    simp only [writeByte]
    split
    · next ha => exact List.pairwise_cons.mpr ⟨by
        intro x hx
        rcases List.mem_cons.mp hx with rfl | hx
        · exact ha
        · exact Nat.lt_trans ha (hk x hx), h⟩
    · split
      · next ha => subst ha; exact List.pairwise_cons.mpr ⟨fun x hx => hk x hx, hm⟩
      · next h1 h2 =>
        refine List.pairwise_cons.mpr ⟨fun x hx => ?_, ih hm⟩
        rcases mem_writeByte hx with rfl | hx
        · show k < a; omega
        · exact hk x hx

theorem writeBytes_wf (bs : List Byte) : ∀ {m : Memory} (a : Nat), m.wf → (writeBytes m a bs).wf := by
  induction bs with
  | nil => exact fun _ h => h
  | cons b bs ih => exact fun a h => ih (a + 1) (writeByte_wf a b h)

/-- The addresses that a write of several bytes lists are those listed before and those written. -/
theorem mem_writeBytes (bs : List Byte) : ∀ {m : Memory} {a : Nat} {x : Host.Cell}, x ∈ writeBytes m a bs →
    x ∈ m ∨ (a ≤ x.1 ∧ x.1 < a + bs.length) := by
  induction bs with
  | nil => exact fun h => .inl h
  | cons b bs ih =>
    intro m a x h
    rcases ih h with h | h
    · rcases mem_writeByte h with rfl | h
      · right; simp
      · exact .inl h
    · right; simp only [List.length_cons]; omega

theorem readByte_writeBytes_outside (bs : List Byte) : ∀ (m : Memory) (a c : Nat), c < a ∨ a + bs.length ≤ c →
    readByte (writeBytes m a bs) c = readByte m c := by
  induction bs with
  | nil => exact fun _ _ _ _ => rfl
  | cons b bs ih =>
    intro m a c h
    simp only [List.length_cons] at h
    rw [writeBytes, ih _ _ _ (by omega), readByte_writeByte_other _ _ (by omega)]

theorem readByte_writeBytes_inside (bs : List Byte) : ∀ (m : Memory) (a i : Nat) (h : i < bs.length),
    readByte (writeBytes m a bs) (a + i) = some bs[i] := by
  induction bs with
  | nil => exact fun _ _ _ h => absurd h (by simp)
  | cons b bs ih =>
    intro m a i h
    cases i with
    | zero => simp [writeBytes, readByte_writeBytes_outside]
    | succ i =>
      have := ih (writeByte m a b) (a + 1) i (by simpa using h)
      rw [show a + 1 + i = a + (i + 1) by omega] at this
      simpa [writeBytes] using this

/-- Reading several bytes succeeds with `bs` exactly when each byte is there. -/
theorem readBytes_eq_some {m : Memory} {a : Nat} {bs : List Byte} {n : Nat} :
    readBytes m a n = some bs ↔ bs.length = n ∧ ∀ i (h : i < bs.length), readByte m (a + i) = some bs[i] := by
  induction n generalizing a bs with
  | zero =>
    simp only [readBytes, Option.some.injEq]
    constructor
    · rintro rfl; simp
    · rintro ⟨h, -⟩; exact (List.length_eq_zero_iff.mp h).symm
  | succ n ih =>
    simp only [readBytes]
    constructor
    · split
      · next b bs' hb hbs =>
        rintro ⟨⟩
        obtain ⟨hl, hr⟩ := ih.mp hbs
        refine ⟨by simp [hl], fun i h => ?_⟩
        cases i with
        | zero => simpa using hb
        | succ i =>
          have := hr i (by simpa using h)
          rw [show a + 1 + i = a + (i + 1) by omega] at this
          simpa using this
      · intro h; cases h
    · rintro ⟨hl, hr⟩
      cases bs with
      | nil => simp at hl
      | cons b bs =>
        have h0 : readByte m a = some b := hr 0 (Nat.succ_pos _)
        have h1 : readBytes m (a + 1) n = some bs := by
          refine ih.mpr ⟨by simpa using hl, fun i h => ?_⟩
          have := hr (i + 1) (by simpa using h)
          rw [show a + (i + 1) = a + 1 + i by omega] at this
          simpa using this
        simp [h0, h1]

theorem readBytes_length {m : Memory} {a n : Nat} {bs : List Byte} (h : readBytes m a n = some bs) : bs.length = n :=
  (readBytes_eq_some.mp h).1

/-- R290: the memory after reset lists nothing. -/
@[simp] theorem resetWith_mem_wf (p : Params) : (State.resetWith p).mem.wf := List.Pairwise.nil

theorem reset_mem_wf : State.reset.mem.wf := resetWith_mem_wf _

@[simp] theorem readBytes_writeBytes_same (m : Memory) (a : Nat) (bs : List Byte) :
    readBytes (writeBytes m a bs) a bs.length = some bs :=
  readBytes_eq_some.mpr ⟨rfl, fun i h => readByte_writeBytes_inside bs m a i h⟩

end Sys2Proof.Machine
end

