-- ==== Sys2Proof/Laws/PerInstr.lean ====
section
/-! SUPPORT. Statements about every instruction as syntax. `StimulusFormat`: which of R103's formats its encoding has, or
which wire token of R91, R92 and R97 it is; the format says what the instruction is. -/

namespace Sys2Proof.Laws.StimulusFormat

/-- The instructions R100 and R101 give a command code. -/
def isCommand : Instr → Bool
  | .stuff => true
  | .destuff => true
  | .chkBcc => true
  | .chkCrc => true
  | .verifyBcc => true
  | .verifyCrc => true
  | .encodeBcc => true
  | .encodeCrc => true
  | .decodeBcc => true
  | .decodeCrc => true
  | .send => true
  | .cancel => true
  | .reserved _ => true
  | .rx _ => false
  | .tick => false
  | .reset => false
  | .wireStartDelim => false
  | .wireEndDelim => false
  | .wireDleDle => false
  | .wireAck => false
  | .wireNak => false
  | .wireEnq => false

/-- A command's word starts with 00, and its code is the low byte of its CMD write; a received byte's word starts with 01;
TICK and RESET start with 10 and 11; a wire token is one byte, or DLE and one byte. -/
def Statement (i : Instr) : Prop :=
  match encode i with
  | .stimulus w =>
    (isCommand i = true ↔ w.extractLsb' 8 2 = 0b00#2) ∧ ((∃ b, i = .rx b) ↔ w.extractLsb' 8 2 = 0b01#2) ∧
      (i = .tick ↔ w.extractLsb' 8 2 = 0b10#2) ∧ (i = .reset ↔ w.extractLsb' 8 2 = 0b11#2)
  | .wire bytes =>
    isCommand i = false ∧ ((∃ b, bytes = [b] ∧ b ≠ dle) ∨ ∃ b, bytes = [dle, b])

theorem commandWord_top (code : Byte) : (commandWord code).extractLsb' 8 2 = 0b00#2 := by revert code; decide

theorem rxWord_top (b : Byte) : (0b01#2 ++ b).extractLsb' 8 2 = 0b01#2 := by revert b; decide

/-- The statement of a command, once for all. -/
theorem of_command {i : Instr} {code : Byte} (he : encode i = .stimulus (commandWord code)) (hc : isCommand i = true)
    (hr : ∀ b, i ≠ .rx b) (ht : i ≠ .tick) (hs : i ≠ .reset) : Statement i := by
  simp [Statement, he, commandWord_top, hc, hr, ht, hs]

theorem stuff : Statement .stuff := of_command rfl rfl (by simp) (by simp) (by simp)
theorem destuff : Statement .destuff := of_command rfl rfl (by simp) (by simp) (by simp)
theorem chkBcc : Statement .chkBcc := of_command rfl rfl (by simp) (by simp) (by simp)
theorem chkCrc : Statement .chkCrc := of_command rfl rfl (by simp) (by simp) (by simp)
theorem verifyBcc : Statement .verifyBcc := of_command rfl rfl (by simp) (by simp) (by simp)
theorem verifyCrc : Statement .verifyCrc := of_command rfl rfl (by simp) (by simp) (by simp)
theorem encodeBcc : Statement .encodeBcc := of_command rfl rfl (by simp) (by simp) (by simp)
theorem encodeCrc : Statement .encodeCrc := of_command rfl rfl (by simp) (by simp) (by simp)
theorem decodeBcc : Statement .decodeBcc := of_command rfl rfl (by simp) (by simp) (by simp)
theorem decodeCrc : Statement .decodeCrc := of_command rfl rfl (by simp) (by simp) (by simp)
theorem send : Statement .send := of_command rfl rfl (by simp) (by simp) (by simp)
theorem cancel : Statement .cancel := of_command rfl rfl (by simp) (by simp) (by simp)

theorem reserved (code : Byte) : Statement (.reserved code) := of_command rfl rfl (by simp) (by simp) (by simp)

theorem rx (b : Byte) : Statement (.rx b) := by simp [Statement, encode, isCommand, rxWord_top]

theorem tick : Statement .tick := by simp [Statement, encode, isCommand]
theorem reset : Statement .reset := by simp [Statement, encode, isCommand]
theorem wireStartDelim : Statement .wireStartDelim := ⟨rfl, .inr ⟨stx, rfl⟩⟩
theorem wireEndDelim : Statement .wireEndDelim := ⟨rfl, .inr ⟨etx, rfl⟩⟩
theorem wireDleDle : Statement .wireDleDle := ⟨rfl, .inr ⟨dle, rfl⟩⟩
theorem wireAck : Statement .wireAck := ⟨rfl, .inl ⟨Sys2Proof.ack, rfl, by decide⟩⟩
theorem wireNak : Statement .wireNak := ⟨rfl, .inl ⟨nak, rfl, by decide⟩⟩
theorem wireEnq : Statement .wireEnq := ⟨rfl, .inl ⟨enq, rfl, by decide⟩⟩

end Sys2Proof.Laws.StimulusFormat
end

