-- ==== Sys2Proof/Laws/State.lean ====
section
/-! SUPPORT. What each named update of the state does to each field: one lemma per field per update, true by unfolding the
update once, so that no later proof unfolds a record update. -/

namespace Sys2Proof.Machine

@[simp] theorem present_resCode (bs : List Byte) (s : State) : (present bs s).resCode = s.resCode := rfl
@[simp] theorem present_resVok (bs : List Byte) (s : State) : (present bs s).resVok = s.resVok := rfl
@[simp] theorem present_chkKind (bs : List Byte) (s : State) : (present bs s).chkKind = s.chkKind := rfl
@[simp] theorem present_maxRetries (bs : List Byte) (s : State) : (present bs s).maxRetries = s.maxRetries := rfl
@[simp] theorem present_ackTo (bs : List Byte) (s : State) : (present bs s).ackTo = s.ackTo := rfl
@[simp] theorem present_replyTo (bs : List Byte) (s : State) : (present bs s).replyTo = s.replyTo := rfl
@[simp] theorem present_addrSrc (bs : List Byte) (s : State) : (present bs s).addrSrc = s.addrSrc := rfl
@[simp] theorem present_addrDst (bs : List Byte) (s : State) : (present bs s).addrDst = s.addrDst := rfl
@[simp] theorem present_inLen (bs : List Byte) (s : State) : (present bs s).inLen = s.inLen := rfl
@[simp] theorem present_outLen (bs : List Byte) (s : State) : (present bs s).outLen = s.outLen := rfl
@[simp] theorem present_decDst (bs : List Byte) (s : State) : (present bs s).decDst = s.decDst := rfl
@[simp] theorem present_decSrc (bs : List Byte) (s : State) : (present bs s).decSrc = s.decSrc := rfl
@[simp] theorem present_decConsumed (bs : List Byte) (s : State) : (present bs s).decConsumed = s.decConsumed := rfl
@[simp] theorem present_tmState (bs : List Byte) (s : State) : (present bs s).tmState = s.tmState := rfl
@[simp] theorem present_fail (bs : List Byte) (s : State) : (present bs s).fail = s.fail := rfl
@[simp] theorem present_staleSeen (bs : List Byte) (s : State) : (present bs s).staleSeen = s.staleSeen := rfl
@[simp] theorem present_retryCount (bs : List Byte) (s : State) : (present bs s).retryCount = s.retryCount := rfl
@[simp] theorem present_tnsCur (bs : List Byte) (s : State) : (present bs s).tnsCur = s.tnsCur := rfl
@[simp] theorem present_tnsNext (bs : List Byte) (s : State) : (present bs s).tnsNext = s.tnsNext := rfl
@[simp] theorem present_timer (bs : List Byte) (s : State) : (present bs s).timer = s.timer := rfl
@[simp] theorem present_replySts (bs : List Byte) (s : State) : (present bs s).replySts = s.replySts := rfl
@[simp] theorem present_replyDst (bs : List Byte) (s : State) : (present bs s).replyDst = s.replyDst := rfl
@[simp] theorem present_replySrc (bs : List Byte) (s : State) : (present bs s).replySrc = s.replySrc := rfl
@[simp] theorem present_replyLen (bs : List Byte) (s : State) : (present bs s).replyLen = s.replyLen := rfl
@[simp] theorem present_rx (bs : List Byte) (s : State) : (present bs s).rx = s.rx := rfl
@[simp] theorem present_txFrame (bs : List Byte) (s : State) : (present bs s).txFrame = s.txFrame := rfl
@[simp] theorem present_txs (bs : List Byte) (s : State) : (present bs s).txs = s.txs := rfl
@[simp] theorem present_mem (bs : List Byte) (s : State) : (present bs s).mem = s.mem := rfl
@[simp] theorem present_params (bs : List Byte) (s : State) : (present bs s).params = s.params := rfl
@[simp] theorem present_inputs (bs : List Byte) (s : State) : (present bs s).inputs = bs.map rxStimulus ++ s.inputs := rfl
@[simp] theorem present_lastRead (bs : List Byte) (s : State) : (present bs s).lastRead = s.lastRead := rfl
@[simp] theorem present_inDraw (bs : List Byte) (s : State) : (present bs s).inDraw = s.inDraw := rfl
@[simp] theorem present_outDraw (bs : List Byte) (s : State) : (present bs s).outDraw = s.outDraw := rfl
@[simp] theorem present_replyDraw (bs : List Byte) (s : State) : (present bs s).replyDraw = s.replyDraw := rfl

@[simp] theorem transmit_resCode (bs : List Byte) (s : State) : (transmit bs s).resCode = s.resCode := rfl
@[simp] theorem transmit_resVok (bs : List Byte) (s : State) : (transmit bs s).resVok = s.resVok := rfl
@[simp] theorem transmit_chkKind (bs : List Byte) (s : State) : (transmit bs s).chkKind = s.chkKind := rfl
@[simp] theorem transmit_maxRetries (bs : List Byte) (s : State) : (transmit bs s).maxRetries = s.maxRetries := rfl
@[simp] theorem transmit_ackTo (bs : List Byte) (s : State) : (transmit bs s).ackTo = s.ackTo := rfl
@[simp] theorem transmit_replyTo (bs : List Byte) (s : State) : (transmit bs s).replyTo = s.replyTo := rfl
@[simp] theorem transmit_addrSrc (bs : List Byte) (s : State) : (transmit bs s).addrSrc = s.addrSrc := rfl
@[simp] theorem transmit_addrDst (bs : List Byte) (s : State) : (transmit bs s).addrDst = s.addrDst := rfl
@[simp] theorem transmit_inLen (bs : List Byte) (s : State) : (transmit bs s).inLen = s.inLen := rfl
@[simp] theorem transmit_outLen (bs : List Byte) (s : State) : (transmit bs s).outLen = s.outLen := rfl
@[simp] theorem transmit_decDst (bs : List Byte) (s : State) : (transmit bs s).decDst = s.decDst := rfl
@[simp] theorem transmit_decSrc (bs : List Byte) (s : State) : (transmit bs s).decSrc = s.decSrc := rfl
@[simp] theorem transmit_decConsumed (bs : List Byte) (s : State) : (transmit bs s).decConsumed = s.decConsumed := rfl
@[simp] theorem transmit_tmState (bs : List Byte) (s : State) : (transmit bs s).tmState = s.tmState := rfl
@[simp] theorem transmit_fail (bs : List Byte) (s : State) : (transmit bs s).fail = s.fail := rfl
@[simp] theorem transmit_staleSeen (bs : List Byte) (s : State) : (transmit bs s).staleSeen = s.staleSeen := rfl
@[simp] theorem transmit_retryCount (bs : List Byte) (s : State) : (transmit bs s).retryCount = s.retryCount := rfl
@[simp] theorem transmit_tnsCur (bs : List Byte) (s : State) : (transmit bs s).tnsCur = s.tnsCur := rfl
@[simp] theorem transmit_tnsNext (bs : List Byte) (s : State) : (transmit bs s).tnsNext = s.tnsNext := rfl
@[simp] theorem transmit_timer (bs : List Byte) (s : State) : (transmit bs s).timer = s.timer := rfl
@[simp] theorem transmit_replySts (bs : List Byte) (s : State) : (transmit bs s).replySts = s.replySts := rfl
@[simp] theorem transmit_replyDst (bs : List Byte) (s : State) : (transmit bs s).replyDst = s.replyDst := rfl
@[simp] theorem transmit_replySrc (bs : List Byte) (s : State) : (transmit bs s).replySrc = s.replySrc := rfl
@[simp] theorem transmit_replyLen (bs : List Byte) (s : State) : (transmit bs s).replyLen = s.replyLen := rfl
@[simp] theorem transmit_rx (bs : List Byte) (s : State) : (transmit bs s).rx = s.rx := rfl
@[simp] theorem transmit_txFrame (bs : List Byte) (s : State) : (transmit bs s).txFrame = s.txFrame := rfl
@[simp] theorem transmit_txs (bs : List Byte) (s : State) : (transmit bs s).txs = s.txs ++ bs := rfl
@[simp] theorem transmit_mem (bs : List Byte) (s : State) : (transmit bs s).mem = s.mem := rfl
@[simp] theorem transmit_params (bs : List Byte) (s : State) : (transmit bs s).params = s.params := rfl
@[simp] theorem transmit_inputs (bs : List Byte) (s : State) : (transmit bs s).inputs = s.inputs := rfl
@[simp] theorem transmit_lastRead (bs : List Byte) (s : State) : (transmit bs s).lastRead = s.lastRead := rfl
@[simp] theorem transmit_inDraw (bs : List Byte) (s : State) : (transmit bs s).inDraw = s.inDraw := rfl
@[simp] theorem transmit_outDraw (bs : List Byte) (s : State) : (transmit bs s).outDraw = s.outDraw := rfl
@[simp] theorem transmit_replyDraw (bs : List Byte) (s : State) : (transmit bs s).replyDraw = s.replyDraw := rfl

@[simp] theorem setRes_resCode (code : ResCode) (vok : Bool) (s : State) : (setRes code vok s).resCode = code := rfl
@[simp] theorem setRes_resVok (code : ResCode) (vok : Bool) (s : State) : (setRes code vok s).resVok = vok := rfl
@[simp] theorem setRes_chkKind (code : ResCode) (vok : Bool) (s : State) : (setRes code vok s).chkKind = s.chkKind := rfl
@[simp] theorem setRes_maxRetries (code : ResCode) (vok : Bool) (s : State) : (setRes code vok s).maxRetries = s.maxRetries := rfl
@[simp] theorem setRes_ackTo (code : ResCode) (vok : Bool) (s : State) : (setRes code vok s).ackTo = s.ackTo := rfl
@[simp] theorem setRes_replyTo (code : ResCode) (vok : Bool) (s : State) : (setRes code vok s).replyTo = s.replyTo := rfl
@[simp] theorem setRes_addrSrc (code : ResCode) (vok : Bool) (s : State) : (setRes code vok s).addrSrc = s.addrSrc := rfl
@[simp] theorem setRes_addrDst (code : ResCode) (vok : Bool) (s : State) : (setRes code vok s).addrDst = s.addrDst := rfl
@[simp] theorem setRes_inLen (code : ResCode) (vok : Bool) (s : State) : (setRes code vok s).inLen = s.inLen := rfl
@[simp] theorem setRes_outLen (code : ResCode) (vok : Bool) (s : State) : (setRes code vok s).outLen = s.outLen := rfl
@[simp] theorem setRes_decDst (code : ResCode) (vok : Bool) (s : State) : (setRes code vok s).decDst = s.decDst := rfl
@[simp] theorem setRes_decSrc (code : ResCode) (vok : Bool) (s : State) : (setRes code vok s).decSrc = s.decSrc := rfl
@[simp] theorem setRes_decConsumed (code : ResCode) (vok : Bool) (s : State) : (setRes code vok s).decConsumed = s.decConsumed := rfl
@[simp] theorem setRes_tmState (code : ResCode) (vok : Bool) (s : State) : (setRes code vok s).tmState = s.tmState := rfl
@[simp] theorem setRes_fail (code : ResCode) (vok : Bool) (s : State) : (setRes code vok s).fail = s.fail := rfl
@[simp] theorem setRes_staleSeen (code : ResCode) (vok : Bool) (s : State) : (setRes code vok s).staleSeen = s.staleSeen := rfl
@[simp] theorem setRes_retryCount (code : ResCode) (vok : Bool) (s : State) : (setRes code vok s).retryCount = s.retryCount := rfl
@[simp] theorem setRes_tnsCur (code : ResCode) (vok : Bool) (s : State) : (setRes code vok s).tnsCur = s.tnsCur := rfl
@[simp] theorem setRes_tnsNext (code : ResCode) (vok : Bool) (s : State) : (setRes code vok s).tnsNext = s.tnsNext := rfl
@[simp] theorem setRes_timer (code : ResCode) (vok : Bool) (s : State) : (setRes code vok s).timer = s.timer := rfl
@[simp] theorem setRes_replySts (code : ResCode) (vok : Bool) (s : State) : (setRes code vok s).replySts = s.replySts := rfl
@[simp] theorem setRes_replyDst (code : ResCode) (vok : Bool) (s : State) : (setRes code vok s).replyDst = s.replyDst := rfl
@[simp] theorem setRes_replySrc (code : ResCode) (vok : Bool) (s : State) : (setRes code vok s).replySrc = s.replySrc := rfl
@[simp] theorem setRes_replyLen (code : ResCode) (vok : Bool) (s : State) : (setRes code vok s).replyLen = s.replyLen := rfl
@[simp] theorem setRes_rx (code : ResCode) (vok : Bool) (s : State) : (setRes code vok s).rx = s.rx := rfl
@[simp] theorem setRes_txFrame (code : ResCode) (vok : Bool) (s : State) : (setRes code vok s).txFrame = s.txFrame := rfl
@[simp] theorem setRes_txs (code : ResCode) (vok : Bool) (s : State) : (setRes code vok s).txs = s.txs := rfl
@[simp] theorem setRes_mem (code : ResCode) (vok : Bool) (s : State) : (setRes code vok s).mem = s.mem := rfl
@[simp] theorem setRes_params (code : ResCode) (vok : Bool) (s : State) : (setRes code vok s).params = s.params := rfl
@[simp] theorem setRes_inputs (code : ResCode) (vok : Bool) (s : State) : (setRes code vok s).inputs = s.inputs := rfl
@[simp] theorem setRes_lastRead (code : ResCode) (vok : Bool) (s : State) : (setRes code vok s).lastRead = s.lastRead := rfl
@[simp] theorem setRes_inDraw (code : ResCode) (vok : Bool) (s : State) : (setRes code vok s).inDraw = s.inDraw := rfl
@[simp] theorem setRes_outDraw (code : ResCode) (vok : Bool) (s : State) : (setRes code vok s).outDraw = s.outDraw := rfl
@[simp] theorem setRes_replyDraw (code : ResCode) (vok : Bool) (s : State) : (setRes code vok s).replyDraw = s.replyDraw := rfl

@[simp] theorem finish_resCode (s : State) : (finish s).resCode = .ok := rfl
@[simp] theorem finish_resVok (s : State) : (finish s).resVok = false := rfl
@[simp] theorem finish_chkKind (s : State) : (finish s).chkKind = s.chkKind := rfl
@[simp] theorem finish_maxRetries (s : State) : (finish s).maxRetries = s.maxRetries := rfl
@[simp] theorem finish_ackTo (s : State) : (finish s).ackTo = s.ackTo := rfl
@[simp] theorem finish_replyTo (s : State) : (finish s).replyTo = s.replyTo := rfl
@[simp] theorem finish_addrSrc (s : State) : (finish s).addrSrc = s.addrSrc := rfl
@[simp] theorem finish_addrDst (s : State) : (finish s).addrDst = s.addrDst := rfl
@[simp] theorem finish_inLen (s : State) : (finish s).inLen = s.inLen := rfl
@[simp] theorem finish_outLen (s : State) : (finish s).outLen = s.outLen := rfl
@[simp] theorem finish_decDst (s : State) : (finish s).decDst = s.decDst := rfl
@[simp] theorem finish_decSrc (s : State) : (finish s).decSrc = s.decSrc := rfl
@[simp] theorem finish_decConsumed (s : State) : (finish s).decConsumed = s.decConsumed := rfl
@[simp] theorem finish_tmState (s : State) : (finish s).tmState = s.tmState := rfl
@[simp] theorem finish_fail (s : State) : (finish s).fail = s.fail := rfl
@[simp] theorem finish_staleSeen (s : State) : (finish s).staleSeen = s.staleSeen := rfl
@[simp] theorem finish_retryCount (s : State) : (finish s).retryCount = s.retryCount := rfl
@[simp] theorem finish_tnsCur (s : State) : (finish s).tnsCur = s.tnsCur := rfl
@[simp] theorem finish_tnsNext (s : State) : (finish s).tnsNext = s.tnsNext := rfl
@[simp] theorem finish_timer (s : State) : (finish s).timer = s.timer := rfl
@[simp] theorem finish_replySts (s : State) : (finish s).replySts = s.replySts := rfl
@[simp] theorem finish_replyDst (s : State) : (finish s).replyDst = s.replyDst := rfl
@[simp] theorem finish_replySrc (s : State) : (finish s).replySrc = s.replySrc := rfl
@[simp] theorem finish_replyLen (s : State) : (finish s).replyLen = s.replyLen := rfl
@[simp] theorem finish_rx (s : State) : (finish s).rx = s.rx := rfl
@[simp] theorem finish_txFrame (s : State) : (finish s).txFrame = s.txFrame := rfl
@[simp] theorem finish_txs (s : State) : (finish s).txs = s.txs := rfl
@[simp] theorem finish_mem (s : State) : (finish s).mem = s.mem := rfl
@[simp] theorem finish_params (s : State) : (finish s).params = s.params := rfl
@[simp] theorem finish_inputs (s : State) : (finish s).inputs = s.inputs := rfl
@[simp] theorem finish_lastRead (s : State) : (finish s).lastRead = s.lastRead := rfl
@[simp] theorem finish_inDraw (s : State) : (finish s).inDraw = s.inDraw := rfl
@[simp] theorem finish_outDraw (s : State) : (finish s).outDraw = s.outDraw := rfl
@[simp] theorem finish_replyDraw (s : State) : (finish s).replyDraw = s.replyDraw := rfl

@[simp] theorem raise_resCode (e : ResCode) (s : State) : (raise e s).resCode = e := rfl
@[simp] theorem raise_resVok (e : ResCode) (s : State) : (raise e s).resVok = false := rfl
@[simp] theorem raise_chkKind (e : ResCode) (s : State) : (raise e s).chkKind = s.chkKind := rfl
@[simp] theorem raise_maxRetries (e : ResCode) (s : State) : (raise e s).maxRetries = s.maxRetries := rfl
@[simp] theorem raise_ackTo (e : ResCode) (s : State) : (raise e s).ackTo = s.ackTo := rfl
@[simp] theorem raise_replyTo (e : ResCode) (s : State) : (raise e s).replyTo = s.replyTo := rfl
@[simp] theorem raise_addrSrc (e : ResCode) (s : State) : (raise e s).addrSrc = s.addrSrc := rfl
@[simp] theorem raise_addrDst (e : ResCode) (s : State) : (raise e s).addrDst = s.addrDst := rfl
@[simp] theorem raise_inLen (e : ResCode) (s : State) : (raise e s).inLen = s.inLen := rfl
@[simp] theorem raise_outLen (e : ResCode) (s : State) : (raise e s).outLen = s.outLen := rfl
@[simp] theorem raise_decDst (e : ResCode) (s : State) : (raise e s).decDst = s.decDst := rfl
@[simp] theorem raise_decSrc (e : ResCode) (s : State) : (raise e s).decSrc = s.decSrc := rfl
@[simp] theorem raise_decConsumed (e : ResCode) (s : State) : (raise e s).decConsumed = s.decConsumed := rfl
@[simp] theorem raise_tmState (e : ResCode) (s : State) : (raise e s).tmState = s.tmState := rfl
@[simp] theorem raise_fail (e : ResCode) (s : State) : (raise e s).fail = s.fail := rfl
@[simp] theorem raise_staleSeen (e : ResCode) (s : State) : (raise e s).staleSeen = s.staleSeen := rfl
@[simp] theorem raise_retryCount (e : ResCode) (s : State) : (raise e s).retryCount = s.retryCount := rfl
@[simp] theorem raise_tnsCur (e : ResCode) (s : State) : (raise e s).tnsCur = s.tnsCur := rfl
@[simp] theorem raise_tnsNext (e : ResCode) (s : State) : (raise e s).tnsNext = s.tnsNext := rfl
@[simp] theorem raise_timer (e : ResCode) (s : State) : (raise e s).timer = s.timer := rfl
@[simp] theorem raise_replySts (e : ResCode) (s : State) : (raise e s).replySts = s.replySts := rfl
@[simp] theorem raise_replyDst (e : ResCode) (s : State) : (raise e s).replyDst = s.replyDst := rfl
@[simp] theorem raise_replySrc (e : ResCode) (s : State) : (raise e s).replySrc = s.replySrc := rfl
@[simp] theorem raise_replyLen (e : ResCode) (s : State) : (raise e s).replyLen = s.replyLen := rfl
@[simp] theorem raise_rx (e : ResCode) (s : State) : (raise e s).rx = s.rx := rfl
@[simp] theorem raise_txFrame (e : ResCode) (s : State) : (raise e s).txFrame = s.txFrame := rfl
@[simp] theorem raise_txs (e : ResCode) (s : State) : (raise e s).txs = s.txs := rfl
@[simp] theorem raise_mem (e : ResCode) (s : State) : (raise e s).mem = s.mem := rfl
@[simp] theorem raise_params (e : ResCode) (s : State) : (raise e s).params = s.params := rfl
@[simp] theorem raise_inputs (e : ResCode) (s : State) : (raise e s).inputs = s.inputs := rfl
@[simp] theorem raise_lastRead (e : ResCode) (s : State) : (raise e s).lastRead = s.lastRead := rfl
@[simp] theorem raise_inDraw (e : ResCode) (s : State) : (raise e s).inDraw = s.inDraw := rfl
@[simp] theorem raise_outDraw (e : ResCode) (s : State) : (raise e s).outDraw = s.outDraw := rfl
@[simp] theorem raise_replyDraw (e : ResCode) (s : State) : (raise e s).replyDraw = s.replyDraw := rfl

@[simp] theorem setOut_resCode (bs : List Byte) (s : State) : (setOut bs s).resCode = s.resCode := rfl
@[simp] theorem setOut_resVok (bs : List Byte) (s : State) : (setOut bs s).resVok = s.resVok := rfl
@[simp] theorem setOut_chkKind (bs : List Byte) (s : State) : (setOut bs s).chkKind = s.chkKind := rfl
@[simp] theorem setOut_maxRetries (bs : List Byte) (s : State) : (setOut bs s).maxRetries = s.maxRetries := rfl
@[simp] theorem setOut_ackTo (bs : List Byte) (s : State) : (setOut bs s).ackTo = s.ackTo := rfl
@[simp] theorem setOut_replyTo (bs : List Byte) (s : State) : (setOut bs s).replyTo = s.replyTo := rfl
@[simp] theorem setOut_addrSrc (bs : List Byte) (s : State) : (setOut bs s).addrSrc = s.addrSrc := rfl
@[simp] theorem setOut_addrDst (bs : List Byte) (s : State) : (setOut bs s).addrDst = s.addrDst := rfl
@[simp] theorem setOut_inLen (bs : List Byte) (s : State) : (setOut bs s).inLen = s.inLen := rfl
@[simp] theorem setOut_outLen (bs : List Byte) (s : State) : (setOut bs s).outLen = BitVec.ofNat 16 bs.length := rfl
@[simp] theorem setOut_decDst (bs : List Byte) (s : State) : (setOut bs s).decDst = s.decDst := rfl
@[simp] theorem setOut_decSrc (bs : List Byte) (s : State) : (setOut bs s).decSrc = s.decSrc := rfl
@[simp] theorem setOut_decConsumed (bs : List Byte) (s : State) : (setOut bs s).decConsumed = s.decConsumed := rfl
@[simp] theorem setOut_tmState (bs : List Byte) (s : State) : (setOut bs s).tmState = s.tmState := rfl
@[simp] theorem setOut_fail (bs : List Byte) (s : State) : (setOut bs s).fail = s.fail := rfl
@[simp] theorem setOut_staleSeen (bs : List Byte) (s : State) : (setOut bs s).staleSeen = s.staleSeen := rfl
@[simp] theorem setOut_retryCount (bs : List Byte) (s : State) : (setOut bs s).retryCount = s.retryCount := rfl
@[simp] theorem setOut_tnsCur (bs : List Byte) (s : State) : (setOut bs s).tnsCur = s.tnsCur := rfl
@[simp] theorem setOut_tnsNext (bs : List Byte) (s : State) : (setOut bs s).tnsNext = s.tnsNext := rfl
@[simp] theorem setOut_timer (bs : List Byte) (s : State) : (setOut bs s).timer = s.timer := rfl
@[simp] theorem setOut_replySts (bs : List Byte) (s : State) : (setOut bs s).replySts = s.replySts := rfl
@[simp] theorem setOut_replyDst (bs : List Byte) (s : State) : (setOut bs s).replyDst = s.replyDst := rfl
@[simp] theorem setOut_replySrc (bs : List Byte) (s : State) : (setOut bs s).replySrc = s.replySrc := rfl
@[simp] theorem setOut_replyLen (bs : List Byte) (s : State) : (setOut bs s).replyLen = s.replyLen := rfl
@[simp] theorem setOut_rx (bs : List Byte) (s : State) : (setOut bs s).rx = s.rx := rfl
@[simp] theorem setOut_txFrame (bs : List Byte) (s : State) : (setOut bs s).txFrame = s.txFrame := rfl
@[simp] theorem setOut_txs (bs : List Byte) (s : State) : (setOut bs s).txs = s.txs := rfl
@[simp] theorem setOut_mem (bs : List Byte) (s : State) : (setOut bs s).mem = writeBytes s.mem outBufBase bs := rfl
@[simp] theorem setOut_params (bs : List Byte) (s : State) : (setOut bs s).params = s.params := rfl
@[simp] theorem setOut_inputs (bs : List Byte) (s : State) : (setOut bs s).inputs = s.inputs := rfl
@[simp] theorem setOut_lastRead (bs : List Byte) (s : State) : (setOut bs s).lastRead = s.lastRead := rfl
@[simp] theorem setOut_inDraw (bs : List Byte) (s : State) : (setOut bs s).inDraw = s.inDraw := rfl
@[simp] theorem setOut_outDraw (bs : List Byte) (s : State) : (setOut bs s).outDraw = s.outDraw + 1 := rfl
@[simp] theorem setOut_replyDraw (bs : List Byte) (s : State) : (setOut bs s).replyDraw = s.replyDraw := rfl

@[simp] theorem clearOut_resCode (s : State) : (clearOut s).resCode = s.resCode := rfl
@[simp] theorem clearOut_resVok (s : State) : (clearOut s).resVok = s.resVok := rfl
@[simp] theorem clearOut_chkKind (s : State) : (clearOut s).chkKind = s.chkKind := rfl
@[simp] theorem clearOut_maxRetries (s : State) : (clearOut s).maxRetries = s.maxRetries := rfl
@[simp] theorem clearOut_ackTo (s : State) : (clearOut s).ackTo = s.ackTo := rfl
@[simp] theorem clearOut_replyTo (s : State) : (clearOut s).replyTo = s.replyTo := rfl
@[simp] theorem clearOut_addrSrc (s : State) : (clearOut s).addrSrc = s.addrSrc := rfl
@[simp] theorem clearOut_addrDst (s : State) : (clearOut s).addrDst = s.addrDst := rfl
@[simp] theorem clearOut_inLen (s : State) : (clearOut s).inLen = s.inLen := rfl
@[simp] theorem clearOut_outLen (s : State) : (clearOut s).outLen = 0 := rfl
@[simp] theorem clearOut_decDst (s : State) : (clearOut s).decDst = s.decDst := rfl
@[simp] theorem clearOut_decSrc (s : State) : (clearOut s).decSrc = s.decSrc := rfl
@[simp] theorem clearOut_decConsumed (s : State) : (clearOut s).decConsumed = s.decConsumed := rfl
@[simp] theorem clearOut_tmState (s : State) : (clearOut s).tmState = s.tmState := rfl
@[simp] theorem clearOut_fail (s : State) : (clearOut s).fail = s.fail := rfl
@[simp] theorem clearOut_staleSeen (s : State) : (clearOut s).staleSeen = s.staleSeen := rfl
@[simp] theorem clearOut_retryCount (s : State) : (clearOut s).retryCount = s.retryCount := rfl
@[simp] theorem clearOut_tnsCur (s : State) : (clearOut s).tnsCur = s.tnsCur := rfl
@[simp] theorem clearOut_tnsNext (s : State) : (clearOut s).tnsNext = s.tnsNext := rfl
@[simp] theorem clearOut_timer (s : State) : (clearOut s).timer = s.timer := rfl
@[simp] theorem clearOut_replySts (s : State) : (clearOut s).replySts = s.replySts := rfl
@[simp] theorem clearOut_replyDst (s : State) : (clearOut s).replyDst = s.replyDst := rfl
@[simp] theorem clearOut_replySrc (s : State) : (clearOut s).replySrc = s.replySrc := rfl
@[simp] theorem clearOut_replyLen (s : State) : (clearOut s).replyLen = s.replyLen := rfl
@[simp] theorem clearOut_rx (s : State) : (clearOut s).rx = s.rx := rfl
@[simp] theorem clearOut_txFrame (s : State) : (clearOut s).txFrame = s.txFrame := rfl
@[simp] theorem clearOut_txs (s : State) : (clearOut s).txs = s.txs := rfl
@[simp] theorem clearOut_mem (s : State) : (clearOut s).mem = s.mem := rfl
@[simp] theorem clearOut_params (s : State) : (clearOut s).params = s.params := rfl
@[simp] theorem clearOut_inputs (s : State) : (clearOut s).inputs = s.inputs := rfl
@[simp] theorem clearOut_lastRead (s : State) : (clearOut s).lastRead = s.lastRead := rfl
@[simp] theorem clearOut_inDraw (s : State) : (clearOut s).inDraw = s.inDraw := rfl
@[simp] theorem clearOut_outDraw (s : State) : (clearOut s).outDraw = s.outDraw := rfl
@[simp] theorem clearOut_replyDraw (s : State) : (clearOut s).replyDraw = s.replyDraw := rfl

@[simp] theorem setDecInfo_resCode (dst src : Byte) (consumed : Nat) (s : State) : (setDecInfo dst src consumed s).resCode = s.resCode := rfl
@[simp] theorem setDecInfo_resVok (dst src : Byte) (consumed : Nat) (s : State) : (setDecInfo dst src consumed s).resVok = s.resVok := rfl
@[simp] theorem setDecInfo_chkKind (dst src : Byte) (consumed : Nat) (s : State) : (setDecInfo dst src consumed s).chkKind = s.chkKind := rfl
@[simp] theorem setDecInfo_maxRetries (dst src : Byte) (consumed : Nat) (s : State) : (setDecInfo dst src consumed s).maxRetries = s.maxRetries := rfl
@[simp] theorem setDecInfo_ackTo (dst src : Byte) (consumed : Nat) (s : State) : (setDecInfo dst src consumed s).ackTo = s.ackTo := rfl
@[simp] theorem setDecInfo_replyTo (dst src : Byte) (consumed : Nat) (s : State) : (setDecInfo dst src consumed s).replyTo = s.replyTo := rfl
@[simp] theorem setDecInfo_addrSrc (dst src : Byte) (consumed : Nat) (s : State) : (setDecInfo dst src consumed s).addrSrc = s.addrSrc := rfl
@[simp] theorem setDecInfo_addrDst (dst src : Byte) (consumed : Nat) (s : State) : (setDecInfo dst src consumed s).addrDst = s.addrDst := rfl
@[simp] theorem setDecInfo_inLen (dst src : Byte) (consumed : Nat) (s : State) : (setDecInfo dst src consumed s).inLen = s.inLen := rfl
@[simp] theorem setDecInfo_outLen (dst src : Byte) (consumed : Nat) (s : State) : (setDecInfo dst src consumed s).outLen = s.outLen := rfl
@[simp] theorem setDecInfo_decDst (dst src : Byte) (consumed : Nat) (s : State) : (setDecInfo dst src consumed s).decDst = dst := rfl
@[simp] theorem setDecInfo_decSrc (dst src : Byte) (consumed : Nat) (s : State) : (setDecInfo dst src consumed s).decSrc = src := rfl
@[simp] theorem setDecInfo_decConsumed (dst src : Byte) (consumed : Nat) (s : State) : (setDecInfo dst src consumed s).decConsumed = BitVec.ofNat 16 consumed := rfl
@[simp] theorem setDecInfo_tmState (dst src : Byte) (consumed : Nat) (s : State) : (setDecInfo dst src consumed s).tmState = s.tmState := rfl
@[simp] theorem setDecInfo_fail (dst src : Byte) (consumed : Nat) (s : State) : (setDecInfo dst src consumed s).fail = s.fail := rfl
@[simp] theorem setDecInfo_staleSeen (dst src : Byte) (consumed : Nat) (s : State) : (setDecInfo dst src consumed s).staleSeen = s.staleSeen := rfl
@[simp] theorem setDecInfo_retryCount (dst src : Byte) (consumed : Nat) (s : State) : (setDecInfo dst src consumed s).retryCount = s.retryCount := rfl
@[simp] theorem setDecInfo_tnsCur (dst src : Byte) (consumed : Nat) (s : State) : (setDecInfo dst src consumed s).tnsCur = s.tnsCur := rfl
@[simp] theorem setDecInfo_tnsNext (dst src : Byte) (consumed : Nat) (s : State) : (setDecInfo dst src consumed s).tnsNext = s.tnsNext := rfl
@[simp] theorem setDecInfo_timer (dst src : Byte) (consumed : Nat) (s : State) : (setDecInfo dst src consumed s).timer = s.timer := rfl
@[simp] theorem setDecInfo_replySts (dst src : Byte) (consumed : Nat) (s : State) : (setDecInfo dst src consumed s).replySts = s.replySts := rfl
@[simp] theorem setDecInfo_replyDst (dst src : Byte) (consumed : Nat) (s : State) : (setDecInfo dst src consumed s).replyDst = s.replyDst := rfl
@[simp] theorem setDecInfo_replySrc (dst src : Byte) (consumed : Nat) (s : State) : (setDecInfo dst src consumed s).replySrc = s.replySrc := rfl
@[simp] theorem setDecInfo_replyLen (dst src : Byte) (consumed : Nat) (s : State) : (setDecInfo dst src consumed s).replyLen = s.replyLen := rfl
@[simp] theorem setDecInfo_rx (dst src : Byte) (consumed : Nat) (s : State) : (setDecInfo dst src consumed s).rx = s.rx := rfl
@[simp] theorem setDecInfo_txFrame (dst src : Byte) (consumed : Nat) (s : State) : (setDecInfo dst src consumed s).txFrame = s.txFrame := rfl
@[simp] theorem setDecInfo_txs (dst src : Byte) (consumed : Nat) (s : State) : (setDecInfo dst src consumed s).txs = s.txs := rfl
@[simp] theorem setDecInfo_mem (dst src : Byte) (consumed : Nat) (s : State) : (setDecInfo dst src consumed s).mem = s.mem := rfl
@[simp] theorem setDecInfo_params (dst src : Byte) (consumed : Nat) (s : State) : (setDecInfo dst src consumed s).params = s.params := rfl
@[simp] theorem setDecInfo_inputs (dst src : Byte) (consumed : Nat) (s : State) : (setDecInfo dst src consumed s).inputs = s.inputs := rfl
@[simp] theorem setDecInfo_lastRead (dst src : Byte) (consumed : Nat) (s : State) : (setDecInfo dst src consumed s).lastRead = s.lastRead := rfl
@[simp] theorem setDecInfo_inDraw (dst src : Byte) (consumed : Nat) (s : State) : (setDecInfo dst src consumed s).inDraw = s.inDraw := rfl
@[simp] theorem setDecInfo_outDraw (dst src : Byte) (consumed : Nat) (s : State) : (setDecInfo dst src consumed s).outDraw = s.outDraw := rfl
@[simp] theorem setDecInfo_replyDraw (dst src : Byte) (consumed : Nat) (s : State) : (setDecInfo dst src consumed s).replyDraw = s.replyDraw := rfl

@[simp] theorem matchReply_resCode (dst src : Byte) (body : List Byte) (s : State) : (matchReply dst src body s).resCode = s.resCode := rfl
@[simp] theorem matchReply_resVok (dst src : Byte) (body : List Byte) (s : State) : (matchReply dst src body s).resVok = s.resVok := rfl
@[simp] theorem matchReply_chkKind (dst src : Byte) (body : List Byte) (s : State) : (matchReply dst src body s).chkKind = s.chkKind := rfl
@[simp] theorem matchReply_maxRetries (dst src : Byte) (body : List Byte) (s : State) : (matchReply dst src body s).maxRetries = s.maxRetries := rfl
@[simp] theorem matchReply_ackTo (dst src : Byte) (body : List Byte) (s : State) : (matchReply dst src body s).ackTo = s.ackTo := rfl
@[simp] theorem matchReply_replyTo (dst src : Byte) (body : List Byte) (s : State) : (matchReply dst src body s).replyTo = s.replyTo := rfl
@[simp] theorem matchReply_addrSrc (dst src : Byte) (body : List Byte) (s : State) : (matchReply dst src body s).addrSrc = s.addrSrc := rfl
@[simp] theorem matchReply_addrDst (dst src : Byte) (body : List Byte) (s : State) : (matchReply dst src body s).addrDst = s.addrDst := rfl
@[simp] theorem matchReply_inLen (dst src : Byte) (body : List Byte) (s : State) : (matchReply dst src body s).inLen = s.inLen := rfl
@[simp] theorem matchReply_outLen (dst src : Byte) (body : List Byte) (s : State) : (matchReply dst src body s).outLen = s.outLen := rfl
@[simp] theorem matchReply_decDst (dst src : Byte) (body : List Byte) (s : State) : (matchReply dst src body s).decDst = s.decDst := rfl
@[simp] theorem matchReply_decSrc (dst src : Byte) (body : List Byte) (s : State) : (matchReply dst src body s).decSrc = s.decSrc := rfl
@[simp] theorem matchReply_decConsumed (dst src : Byte) (body : List Byte) (s : State) : (matchReply dst src body s).decConsumed = s.decConsumed := rfl
@[simp] theorem matchReply_tmState (dst src : Byte) (body : List Byte) (s : State) : (matchReply dst src body s).tmState = .matched := rfl
@[simp] theorem matchReply_fail (dst src : Byte) (body : List Byte) (s : State) : (matchReply dst src body s).fail = s.fail := rfl
@[simp] theorem matchReply_staleSeen (dst src : Byte) (body : List Byte) (s : State) : (matchReply dst src body s).staleSeen = s.staleSeen := rfl
@[simp] theorem matchReply_retryCount (dst src : Byte) (body : List Byte) (s : State) : (matchReply dst src body s).retryCount = s.retryCount := rfl
@[simp] theorem matchReply_tnsCur (dst src : Byte) (body : List Byte) (s : State) : (matchReply dst src body s).tnsCur = s.tnsCur := rfl
@[simp] theorem matchReply_tnsNext (dst src : Byte) (body : List Byte) (s : State) : (matchReply dst src body s).tnsNext = s.tnsNext := rfl
@[simp] theorem matchReply_timer (dst src : Byte) (body : List Byte) (s : State) : (matchReply dst src body s).timer = 0 := rfl
@[simp] theorem matchReply_replySts (dst src : Byte) (body : List Byte) (s : State) : (matchReply dst src body s).replySts = body.getD 1 0 := rfl
@[simp] theorem matchReply_replyDst (dst src : Byte) (body : List Byte) (s : State) : (matchReply dst src body s).replyDst = dst := rfl
@[simp] theorem matchReply_replySrc (dst src : Byte) (body : List Byte) (s : State) : (matchReply dst src body s).replySrc = src := rfl
@[simp] theorem matchReply_replyLen (dst src : Byte) (body : List Byte) (s : State) : (matchReply dst src body s).replyLen = BitVec.ofNat 16 body.length := rfl
@[simp] theorem matchReply_rx (dst src : Byte) (body : List Byte) (s : State) : (matchReply dst src body s).rx = [] := rfl
@[simp] theorem matchReply_txFrame (dst src : Byte) (body : List Byte) (s : State) : (matchReply dst src body s).txFrame = s.txFrame := rfl
@[simp] theorem matchReply_txs (dst src : Byte) (body : List Byte) (s : State) : (matchReply dst src body s).txs = s.txs := rfl
@[simp] theorem matchReply_mem (dst src : Byte) (body : List Byte) (s : State) : (matchReply dst src body s).mem = writeBytes s.mem replyBufBase body := rfl
@[simp] theorem matchReply_params (dst src : Byte) (body : List Byte) (s : State) : (matchReply dst src body s).params = s.params := rfl
@[simp] theorem matchReply_inputs (dst src : Byte) (body : List Byte) (s : State) : (matchReply dst src body s).inputs = s.inputs := rfl
@[simp] theorem matchReply_lastRead (dst src : Byte) (body : List Byte) (s : State) : (matchReply dst src body s).lastRead = s.lastRead := rfl
@[simp] theorem matchReply_inDraw (dst src : Byte) (body : List Byte) (s : State) : (matchReply dst src body s).inDraw = s.inDraw := rfl
@[simp] theorem matchReply_outDraw (dst src : Byte) (body : List Byte) (s : State) : (matchReply dst src body s).outDraw = s.outDraw := rfl
@[simp] theorem matchReply_replyDraw (dst src : Byte) (body : List Byte) (s : State) : (matchReply dst src body s).replyDraw = s.replyDraw + 1 := rfl

@[simp] theorem takeInput_resCode (s : State) : (takeInput s).resCode = s.resCode := rfl
@[simp] theorem takeInput_resVok (s : State) : (takeInput s).resVok = s.resVok := rfl
@[simp] theorem takeInput_chkKind (s : State) : (takeInput s).chkKind = s.chkKind := rfl
@[simp] theorem takeInput_maxRetries (s : State) : (takeInput s).maxRetries = s.maxRetries := rfl
@[simp] theorem takeInput_ackTo (s : State) : (takeInput s).ackTo = s.ackTo := rfl
@[simp] theorem takeInput_replyTo (s : State) : (takeInput s).replyTo = s.replyTo := rfl
@[simp] theorem takeInput_addrSrc (s : State) : (takeInput s).addrSrc = s.addrSrc := rfl
@[simp] theorem takeInput_addrDst (s : State) : (takeInput s).addrDst = s.addrDst := rfl
@[simp] theorem takeInput_inLen (s : State) : (takeInput s).inLen = s.inLen := rfl
@[simp] theorem takeInput_outLen (s : State) : (takeInput s).outLen = s.outLen := rfl
@[simp] theorem takeInput_decDst (s : State) : (takeInput s).decDst = s.decDst := rfl
@[simp] theorem takeInput_decSrc (s : State) : (takeInput s).decSrc = s.decSrc := rfl
@[simp] theorem takeInput_decConsumed (s : State) : (takeInput s).decConsumed = s.decConsumed := rfl
@[simp] theorem takeInput_tmState (s : State) : (takeInput s).tmState = s.tmState := rfl
@[simp] theorem takeInput_fail (s : State) : (takeInput s).fail = s.fail := rfl
@[simp] theorem takeInput_staleSeen (s : State) : (takeInput s).staleSeen = s.staleSeen := rfl
@[simp] theorem takeInput_retryCount (s : State) : (takeInput s).retryCount = s.retryCount := rfl
@[simp] theorem takeInput_tnsCur (s : State) : (takeInput s).tnsCur = s.tnsCur := rfl
@[simp] theorem takeInput_tnsNext (s : State) : (takeInput s).tnsNext = s.tnsNext := rfl
@[simp] theorem takeInput_timer (s : State) : (takeInput s).timer = s.timer := rfl
@[simp] theorem takeInput_replySts (s : State) : (takeInput s).replySts = s.replySts := rfl
@[simp] theorem takeInput_replyDst (s : State) : (takeInput s).replyDst = s.replyDst := rfl
@[simp] theorem takeInput_replySrc (s : State) : (takeInput s).replySrc = s.replySrc := rfl
@[simp] theorem takeInput_replyLen (s : State) : (takeInput s).replyLen = s.replyLen := rfl
@[simp] theorem takeInput_rx (s : State) : (takeInput s).rx = s.rx := rfl
@[simp] theorem takeInput_txFrame (s : State) : (takeInput s).txFrame = s.txFrame := rfl
@[simp] theorem takeInput_txs (s : State) : (takeInput s).txs = s.txs := rfl
@[simp] theorem takeInput_mem (s : State) : (takeInput s).mem = s.mem := rfl
@[simp] theorem takeInput_params (s : State) : (takeInput s).params = s.params := rfl
@[simp] theorem takeInput_inputs (s : State) : (takeInput s).inputs = s.inputs.tail := rfl
@[simp] theorem takeInput_lastRead (s : State) : (takeInput s).lastRead = s.lastRead := rfl
@[simp] theorem takeInput_inDraw (s : State) : (takeInput s).inDraw = s.inDraw := rfl
@[simp] theorem takeInput_outDraw (s : State) : (takeInput s).outDraw = s.outDraw := rfl
@[simp] theorem takeInput_replyDraw (s : State) : (takeInput s).replyDraw = s.replyDraw := rfl

@[simp] theorem startTransaction_resCode (body : List Byte) (s : State) : (startTransaction body s).resCode = .ok := rfl
@[simp] theorem startTransaction_resVok (body : List Byte) (s : State) : (startTransaction body s).resVok = false := rfl
@[simp] theorem startTransaction_chkKind (body : List Byte) (s : State) : (startTransaction body s).chkKind = s.chkKind := rfl
@[simp] theorem startTransaction_maxRetries (body : List Byte) (s : State) : (startTransaction body s).maxRetries = s.maxRetries := rfl
@[simp] theorem startTransaction_ackTo (body : List Byte) (s : State) : (startTransaction body s).ackTo = s.ackTo := rfl
@[simp] theorem startTransaction_replyTo (body : List Byte) (s : State) : (startTransaction body s).replyTo = s.replyTo := rfl
@[simp] theorem startTransaction_addrSrc (body : List Byte) (s : State) : (startTransaction body s).addrSrc = s.addrSrc := rfl
@[simp] theorem startTransaction_addrDst (body : List Byte) (s : State) : (startTransaction body s).addrDst = s.addrDst := rfl
@[simp] theorem startTransaction_inLen (body : List Byte) (s : State) : (startTransaction body s).inLen = s.inLen := rfl
@[simp] theorem startTransaction_outLen (body : List Byte) (s : State) : (startTransaction body s).outLen = s.outLen := rfl
@[simp] theorem startTransaction_decDst (body : List Byte) (s : State) : (startTransaction body s).decDst = s.decDst := rfl
@[simp] theorem startTransaction_decSrc (body : List Byte) (s : State) : (startTransaction body s).decSrc = s.decSrc := rfl
@[simp] theorem startTransaction_decConsumed (body : List Byte) (s : State) : (startTransaction body s).decConsumed = s.decConsumed := rfl
@[simp] theorem startTransaction_tmState (body : List Byte) (s : State) : (startTransaction body s).tmState = .awaitAck := rfl
@[simp] theorem startTransaction_fail (body : List Byte) (s : State) : (startTransaction body s).fail = .none := rfl
@[simp] theorem startTransaction_staleSeen (body : List Byte) (s : State) : (startTransaction body s).staleSeen = false := rfl
@[simp] theorem startTransaction_retryCount (body : List Byte) (s : State) : (startTransaction body s).retryCount = 1 := rfl
@[simp] theorem startTransaction_tnsCur (body : List Byte) (s : State) : (startTransaction body s).tnsCur = s.tnsNext := rfl
@[simp] theorem startTransaction_tnsNext (body : List Byte) (s : State) : (startTransaction body s).tnsNext = s.tnsNext + 1 := rfl
@[simp] theorem startTransaction_timer (body : List Byte) (s : State) : (startTransaction body s).timer = s.ackTo := rfl
@[simp] theorem startTransaction_replySts (body : List Byte) (s : State) : (startTransaction body s).replySts = 0 := rfl
@[simp] theorem startTransaction_replyDst (body : List Byte) (s : State) : (startTransaction body s).replyDst = 0 := rfl
@[simp] theorem startTransaction_replySrc (body : List Byte) (s : State) : (startTransaction body s).replySrc = 0 := rfl
@[simp] theorem startTransaction_replyLen (body : List Byte) (s : State) : (startTransaction body s).replyLen = 0 := rfl
@[simp] theorem startTransaction_rx (body : List Byte) (s : State) : (startTransaction body s).rx = [] := rfl
@[simp] theorem startTransaction_txFrame (body : List Byte) (s : State) : (startTransaction body s).txFrame = frameOf s.chkKind ([s.addrDst, s.addrSrc] ++ body) := rfl
@[simp] theorem startTransaction_txs (body : List Byte) (s : State) : (startTransaction body s).txs = s.txs ++ frameOf s.chkKind ([s.addrDst, s.addrSrc] ++ body) := rfl
@[simp] theorem startTransaction_mem (body : List Byte) (s : State) : (startTransaction body s).mem = s.mem := rfl
@[simp] theorem startTransaction_params (body : List Byte) (s : State) : (startTransaction body s).params = s.params := rfl
@[simp] theorem startTransaction_inputs (body : List Byte) (s : State) : (startTransaction body s).inputs = s.inputs := rfl
@[simp] theorem startTransaction_lastRead (body : List Byte) (s : State) : (startTransaction body s).lastRead = s.lastRead := rfl
@[simp] theorem startTransaction_inDraw (body : List Byte) (s : State) : (startTransaction body s).inDraw = s.inDraw := rfl
@[simp] theorem startTransaction_outDraw (body : List Byte) (s : State) : (startTransaction body s).outDraw = s.outDraw := rfl
@[simp] theorem startTransaction_replyDraw (body : List Byte) (s : State) : (startTransaction body s).replyDraw = s.replyDraw := rfl

end Sys2Proof.Machine
end

