-- ==== Sys2Proof/Laws/Transaction.lean ====
section
/-! SUPPORT. What the procedures of the transaction state machine can do, one lemma each: `fail_attempt` (R210), `ack_step`
(R219), `reply_step` (R226), the loop of `process_rx` (R218), and the reception of a byte. -/

namespace Sys2Proof.Machine

theorem awaiting_iff {s : State} : awaiting s = true ↔ s.tmState = .awaitAck ∨ s.tmState = .awaitReply := by
  simp [awaiting]

theorem awaiting_eq_false {s : State} :
    awaiting s = false ↔ s.tmState = .idle ∨ s.tmState = .matched ∨ s.tmState = .failed := by
  cases h : s.tmState <;> simp [awaiting, h]

/-- R210, the retry: an attempt remains. -/
theorem failAttempt_retry {stage : Stage} {s : State} (h : s.retryCount < s.maxRetries) :
    failAttempt stage s = { s with
      rx := [], retryCount := s.retryCount + 1, tmState := .awaitAck, timer := s.ackTo, txs := s.txs ++ s.txFrame } := by
  simp only [failAttempt, if_pos h, transmit]

/-- R210, the end: no attempt remains. -/
theorem failAttempt_exhausted {stage : Stage} {s : State} (h : ¬s.retryCount < s.maxRetries) :
    failAttempt stage s = { s with rx := [], tmState := .failed, timer := 0, fail := stage.reason } := by
  simp only [failAttempt, if_neg h]

@[simp] theorem failAttempt_rx (stage : Stage) (s : State) : (failAttempt stage s).rx = [] := by
  by_cases h : s.retryCount < s.maxRetries
  · rw [failAttempt_retry h]
  · rw [failAttempt_exhausted h]

/-- R210: the failed attempt's bytes and its timer make no difference. -/
theorem failAttempt_ignores (stage : Stage) (s : State) (bytes : List Byte) (v : Word) :
    failAttempt stage { s with rx := bytes, timer := v } = failAttempt stage s := by
  by_cases h : s.retryCount < s.maxRetries
  · rw [failAttempt_retry h, failAttempt_retry (s := { s with rx := bytes, timer := v }) h]
  · rw [failAttempt_exhausted h, failAttempt_exhausted (s := { s with rx := bytes, timer := v }) h]

/-- The stage of the wait a TICK can end (R215). -/
def waitStage (s : State) : Stage := if s.tmState = .awaitAck then .ack else .reply

/-- R215: the three effects of a TICK. -/
theorem tickState_cases (s : State) :
    (awaiting s = false ∧ tickState s = s) ∨
    (awaiting s = true ∧ s.timer - 1 ≠ 0 ∧ tickState s = { s with timer := s.timer - 1 }) ∨
    (awaiting s = true ∧ s.timer - 1 = 0 ∧ tickState s = failAttempt (waitStage s) s) := by
  by_cases hw : awaiting s = true
  · have key : tickState s = if s.timer - 1 = 0 then failAttempt (waitStage s) { s with timer := s.timer - 1 }
        else { s with timer := s.timer - 1 } := by
      rcases awaiting_iff.mp hw with h | h <;> simp only [tickState, waitStage, h] <;> rfl
    by_cases h0 : s.timer - 1 = 0
    · exact .inr (.inr ⟨hw, h0, by rw [key, if_pos h0]; exact failAttempt_ignores _ s s.rx _⟩)
    · exact .inr (.inl ⟨hw, h0, by rw [key, if_neg h0]⟩)
  · have hf : awaiting s = false := by simpa using hw
    refine .inl ⟨hf, ?_⟩
    rcases awaiting_eq_false.mp hf with h | h | h <;> simp only [tickState, h]

/-- R219. -/
theorem ackStep_cases (h : Byte) (rest : List Byte) (s : State) :
    (h = ack ∧ ackStep h rest s = { s with rx := rest, tmState := .awaitReply, timer := s.replyTo }) ∨
    (h ≠ ack ∧ ackStep h rest s = failAttempt .ack s) := by
  by_cases hh : h = ack
  · exact .inl ⟨hh, by simp only [ackStep, if_pos hh]⟩
  · exact .inr ⟨hh, by simp only [ackStep, if_neg hh]⟩

/-- R97, R226: the handshake bytes. -/
theorem isHandshake_iff {b : Byte} : isHandshake b = true ↔ b = 0x06 ∨ b = 0x15 ∨ b = 0x05 := by
  have h : isHandshake b = true ↔ b = Sys2Proof.ack ∨ b = nak ∨ b = enq := by
    simp only [isHandshake, Bool.or_eq_true, decide_eq_true_eq, or_assoc]
  exact h

/-- R69: the number of two bytes, low byte first. -/
theorem half_toNat (lo hi : Byte) : (half lo hi).toNat = lo.toNat + 256 * hi.toNat := by
  have h : lo.toNat < 2 ^ 8 := lo.isLt
  rw [half, BitVec.toNat_append, Nat.shiftLeft_eq, Nat.mul_comm, ← Nat.two_pow_add_eq_or_of_lt h]
  omega

/-- R227. -/
theorem correlates_iff {body : List Byte} {s : State} : correlates body s = true ↔
    4 ≤ body.length ∧ (body.getD 2 0).toNat + 256 * (body.getD 3 0).toNat = s.tnsCur.toNat := by
  simp only [correlates, Bool.and_eq_true, decide_eq_true_eq, bodyTns, ← BitVec.toNat_inj, half_toNat]

/-- R226: the five ends of a reply step. -/
theorem replyStep_cases (h : Byte) (rest : List Byte) (s : State) :
    (isHandshake h = true ∧ replyStep h rest s = .goOn { s with rx := rest }) ∨
    (isHandshake h = false ∧
      ((decodeFrame s.params.maxInterior s.chkKind s.rx = .incomplete ∧ replyStep h rest s = .stop s) ∨
      ((∃ used, decodeFrame s.params.maxInterior s.chkKind s.rx = .malformed used ∨
          decodeFrame s.params.maxInterior s.chkKind s.rx = .checksum used) ∧
        replyStep h rest s = .stop (failAttempt .reply s)) ∨
      ∃ used dst src body, decodeFrame s.params.maxInterior s.chkKind s.rx = .ok used dst src body ∧
        ((correlates body s = true ∧ replyStep h rest s =
            .stop (matchReply dst src body { s with rx := s.rx.drop used, txs := s.txs ++ [ack] })) ∨
          (correlates body s = false ∧ replyStep h rest s =
            .goOn { s with rx := s.rx.drop used, txs := s.txs ++ [ack], staleSeen := true })))) := by
  by_cases hh : isHandshake h = true
  · exact .inl ⟨hh, by simp only [replyStep, if_pos hh]⟩
  · refine .inr ⟨by simpa using hh, ?_⟩
    simp only [replyStep, if_neg hh]
    cases hd : decodeFrame s.params.maxInterior s.chkKind s.rx with
    | incomplete => exact .inl ⟨rfl, rfl⟩
    | malformed used => exact .inr (.inl ⟨⟨used, .inl rfl⟩, rfl⟩)
    | checksum used => exact .inr (.inl ⟨⟨used, .inr rfl⟩, rfl⟩)
    | ok used dst src body =>
      refine .inr (.inr ⟨used, dst, src, body, rfl, ?_⟩)
      have hc : correlates body (transmit [ack] { s with rx := s.rx.drop used }) = correlates body s := rfl
      cases h' : correlates body s with
      | true => exact .inl ⟨rfl, by simp only [acceptFrame, hc, h', if_true]; rfl⟩
      | false => exact .inr ⟨rfl, by simp only [acceptFrame, hc, h']; rfl⟩

/-- R218: the loop ends where `rx` is empty or the block is in no wait. -/
theorem processRx_rest {n : Nat} {s : State} (h : s.rx = [] ∨ awaiting s = false) : processRx n s = s := by
  cases n with
  | zero => rfl
  | succ n =>
    rcases h with h | h
    · simp only [processRx, h]
    · simp only [processRx]
      split
      · rfl
      · rcases awaiting_eq_false.mp h with h | h | h <;> simp only [h]

theorem processRx_ack {n : Nat} {s : State} {h : Byte} {rest : List Byte} (hr : s.rx = h :: rest)
    (hs : s.tmState = .awaitAck) : processRx (n + 1) s = processRx n (ackStep h rest s) := by
  simp only [processRx, hr, hs]

theorem processRx_continue {n : Nat} {s t : State} {h : Byte} {rest : List Byte} (hr : s.rx = h :: rest)
    (hs : s.tmState = .awaitReply) (hp : replyStep h rest s = .goOn t) : processRx (n + 1) s = processRx n t := by
  simp only [processRx, hr, hs, hp]

theorem processRx_stop {n : Nat} {s t : State} {h : Byte} {rest : List Byte} (hr : s.rx = h :: rest)
    (hs : s.tmState = .awaitReply) (hp : replyStep h rest s = .stop t) : processRx (n + 1) s = t := by
  simp only [processRx, hr, hs, hp]

/-- What every ACK step and every reply step keeps, the loop keeps. -/
theorem processRx_keeps {P : State → Prop}
    (ackKeeps : ∀ h rest s, s.rx = h :: rest → s.tmState = .awaitAck → P s → P (ackStep h rest s))
    (goOnKeeps : ∀ h rest s t, s.rx = h :: rest → s.tmState = .awaitReply → replyStep h rest s = .goOn t → P s → P t)
    (stopKeeps : ∀ h rest s t, s.rx = h :: rest → s.tmState = .awaitReply → replyStep h rest s = .stop t → P s → P t) :
    ∀ (n : Nat) (s : State), P s → P (processRx n s)
  | 0, _, hp => hp
  | n + 1, s, hp => by
    have ih := processRx_keeps ackKeeps goOnKeeps stopKeeps n
    cases hr : s.rx with
    | nil => rwa [processRx_rest (.inl hr)]
    | cons h rest =>
      by_cases hw : awaiting s = true
      · rcases awaiting_iff.mp hw with hs | hs
        · rw [processRx_ack hr hs]; exact ih _ (ackKeeps h rest s hr hs hp)
        · cases hq : replyStep h rest s with
          | goOn t => rw [processRx_continue hr hs hq]; exact ih _ (goOnKeeps h rest s t hr hs hq hp)
          | stop t => rw [processRx_stop hr hs hq]; exact stopKeeps h rest s t hr hs hq hp
      · rwa [processRx_rest (.inr (by simpa using hw))]

/-- A decode that is not INCOMPLETE consumes a byte. -/
theorem decodeFrame_ok_used {m : Nat} {k : ChkKind} {b : List Byte} {used : Nat} {dst src : Byte} {body : List Byte}
    (h : decodeFrame m k b = .ok used dst src body) : 0 < used := by
  have hc : ∀ i interior rest, checkFrame k i interior rest = .ok used dst src body → 0 < used := by
    intro i interior rest
    have := checkLen_pos k
    simp only [checkFrame]
    repeat' split
    all_goals grind
  match b with
  | [] => simp [decodeFrame] at h
  | [b] => simp only [decodeFrame] at h; split at h <;> cases h
  | b :: c :: ys =>
    simp only [decodeFrame] at h
    repeat' split at h
    all_goals first | cases h | exact hc _ _ _ h

/-- R218: the loop comes to its end within `len(rx)` rounds, so that rounds beyond them change nothing (log 12). -/
theorem processRx_enough : ∀ (n m : Nat) (s : State), s.rx.length ≤ n → s.rx.length ≤ m → processRx n s = processRx m s := by
  suffices ∀ (n : Nat) (s : State), s.rx.length ≤ n → processRx n s = processRx (n + 1) s by
    have up : ∀ (d n : Nat) (s : State), s.rx.length ≤ n → processRx n s = processRx (n + d) s := by
      intro d
      induction d with
      | zero => exact fun _ _ _ => rfl
      | succ d ih => exact fun n s h => (ih n s h).trans (this (n + d) s (by omega))
    intro n m s hn hm
    rcases Nat.le_total n m with h | h
    · simpa [show n + (m - n) = m by omega] using up (m - n) n s hn
    · simpa [show m + (n - m) = n by omega] using (up (n - m) m s hm).symm
  intro n
  induction n with
  | zero => exact fun s h => (processRx_rest (.inl (List.eq_nil_of_length_eq_zero (Nat.le_zero.mp h)))).symm
  | succ n ih =>
    intro s h
    cases hr : s.rx with
    | nil => rw [processRx_rest (.inl hr), processRx_rest (.inl hr)]
    | cons b rest =>
      rw [hr, List.length_cons] at h
      by_cases hw : awaiting s = true
      · rcases awaiting_iff.mp hw with hs | hs
        · rw [processRx_ack hr hs, processRx_ack hr hs]
          apply ih
          rcases ackStep_cases b rest s with ⟨-, he⟩ | ⟨-, he⟩ <;> rw [he]
          · exact Nat.le_of_succ_le_succ h
          · simp
        · cases hq : replyStep b rest s with
          | goOn t =>
            rw [processRx_continue hr hs hq, processRx_continue hr hs hq]
            apply ih
            rcases replyStep_cases b rest s with ⟨-, he⟩ | ⟨-, ⟨-, he⟩ | ⟨-, he⟩ | ⟨used, _, _, _, hd, ⟨-, he⟩ | ⟨-, he⟩⟩⟩ <;>
              rw [hq] at he <;> cases he
            · exact Nat.le_of_succ_le_succ h
            · have := decodeFrame_ok_used hd
              simp only [hr, List.length_drop, List.length_cons]; omega
          | stop t => rw [processRx_stop hr hs hq, processRx_stop hr hs hq]
      · rw [processRx_rest (.inr (by simpa using hw)), processRx_rest (.inr (by simpa using hw))]

/-- R232. -/
theorem receive_resting {s : State} (b : Byte) (h : awaiting s = false) : receive b s = s := by
  simp only [receive, h, Bool.false_eq_true, if_false]

theorem receive_awaiting {s : State} (b : Byte) (h : awaiting s = true) :
    receive b s = processRx (s.rx.length + 1) { s with rx := s.rx ++ [b] } := by
  simp only [receive, h, if_true]

/-- What appending the byte, every ACK step and every reply step keep, receiving a byte keeps. -/
theorem receive_keeps {P : State → Prop} (b : Byte) {s : State}
    (append : awaiting s = true → P s → P { s with rx := s.rx ++ [b] })
    (ackKeeps : ∀ h rest s, s.rx = h :: rest → s.tmState = .awaitAck → P s → P (ackStep h rest s))
    (goOnKeeps : ∀ h rest s t, s.rx = h :: rest → s.tmState = .awaitReply → replyStep h rest s = .goOn t → P s → P t)
    (stopKeeps : ∀ h rest s t, s.rx = h :: rest → s.tmState = .awaitReply → replyStep h rest s = .stop t → P s → P t)
    (h : P s) : P (receive b s) := by
  by_cases hw : awaiting s = true
  · rw [receive_awaiting b hw]; exact processRx_keeps ackKeeps goOnKeeps stopKeeps _ _ (append hw h)
  · rwa [receive_resting b (by simpa using hw)]

/-- A byte received in AWAIT_ACK, where every earlier byte has been consumed, is one ACK step. -/
theorem receive_awaitAck {s : State} (b : Byte) (hs : s.tmState = .awaitAck) (hr : s.rx = []) :
    receive b s = ackStep b [] { s with rx := [b] } := by
  rw [receive_awaiting b (awaiting_iff.mpr (.inl hs)), hr, List.nil_append]
  refine (processRx_ack (n := 0) (s := { s with rx := [b] }) rfl hs).trans (processRx_rest (.inl ?_))
  rcases ackStep_cases b [] { s with rx := [b] } with ⟨-, he⟩ | ⟨-, he⟩ <;> rw [he]
  exact failAttempt_rx _ _

theorem failAttempt_withInputs (stage : Stage) (s : State) (q : List Stimulus) :
    failAttempt stage { s with inputs := q } = { failAttempt stage s with inputs := q } := by
  by_cases h : s.retryCount < s.maxRetries
  · rw [failAttempt_retry h, failAttempt_retry (s := { s with inputs := q }) h]
  · rw [failAttempt_exhausted h, failAttempt_exhausted (s := { s with inputs := q }) h]

theorem ackStep_withInputs (h : Byte) (rest : List Byte) (s : State) (q : List Stimulus) :
    ackStep h rest { s with inputs := q } = { ackStep h rest s with inputs := q } := by
  by_cases hh : h = Sys2Proof.ack
  · simp only [ackStep, if_pos hh]
  · simp only [ackStep, if_neg hh, failAttempt_withInputs]

/-- A reply step neither reads nor writes the stimuli to come. -/
theorem replyStep_withInputs (h : Byte) (rest : List Byte) (s : State) (q : List Stimulus) :
    replyStep h rest { s with inputs := q } =
      match replyStep h rest s with
      | .goOn t => .goOn { t with inputs := q }
      | .stop t => .stop { t with inputs := q } := by
  by_cases hh : isHandshake h = true
  · simp only [replyStep, if_pos hh]
  · simp only [replyStep, if_neg hh]
    cases hd : decodeFrame s.params.maxInterior s.chkKind s.rx with
    | incomplete => rfl
    | malformed used => simp only [failAttempt_withInputs]
    | checksum used => simp only [failAttempt_withInputs]
    | ok used dst src body =>
      by_cases hc : correlates body s = true
      · have h1 : acceptFrame used dst src body s = _ := if_pos hc
        have h2 : acceptFrame used dst src body { s with inputs := q } = _ := if_pos hc
        simp only [h1, h2]; rfl
      · have h1 : acceptFrame used dst src body s = _ := if_neg hc
        have h2 : acceptFrame used dst src body { s with inputs := q } = _ := if_neg hc
        simp only [h1, h2]; rfl

theorem processRx_withInputs : ∀ (n : Nat) (s : State) (q : List Stimulus),
    processRx n { s with inputs := q } = { processRx n s with inputs := q }
  | 0, _, _ => rfl
  | n + 1, s, q => by
    have ih := processRx_withInputs n
    obtain hr | ⟨h, rest, hr⟩ : s.rx = [] ∨ ∃ h rest, s.rx = h :: rest := by cases s.rx <;> simp
    · rw [processRx_rest (.inl hr), processRx_rest (s := { s with inputs := q }) (.inl hr)]
    · by_cases hw : awaiting s = true
      · rcases awaiting_iff.mp hw with hs | hs
        · rw [processRx_ack hr hs, processRx_ack (s := { s with inputs := q }) hr hs, ackStep_withInputs, ih]
        · have hq := replyStep_withInputs h rest s q
          cases hp : replyStep h rest s with
          | goOn t =>
            rw [hp] at hq
            rw [processRx_continue hr hs hp, processRx_continue (s := { s with inputs := q }) hr hs hq, ih]
          | stop t =>
            rw [hp] at hq
            rw [processRx_stop hr hs hp, processRx_stop (s := { s with inputs := q }) hr hs hq]
      · have hf : awaiting s = false := by simpa using hw
        rw [processRx_rest (.inr hf), processRx_rest (s := { s with inputs := q }) (.inr hf)]

/-- Receiving a byte neither reads nor writes the stimuli to come. -/
theorem receive_withInputs (b : Byte) (s : State) (q : List Stimulus) :
    receive b { s with inputs := q } = { receive b s with inputs := q } := by
  by_cases hw : awaiting s = true
  · rw [receive_awaiting b hw, receive_awaiting (s := { s with inputs := q }) b hw, ← processRx_withInputs]
  · have hf : awaiting s = false := by simpa using hw
    rw [receive_resting b hf, receive_resting (s := { s with inputs := q }) b hf]

@[simp] theorem receive_inputs (b : Byte) (s : State) : (receive b s).inputs = s.inputs := by
  have h := congrArg (fun t : State => t.inputs) (receive_withInputs b s s.inputs)
  exact h

theorem receive_present (b : Byte) (bs : List Byte) (s : State) : receive b (present bs s) = present bs (receive b s) := by
  rw [present, receive_withInputs, present, receive_inputs]

/-- A command that takes its input answers a next state exactly on an input all of which has been written. -/
theorem withInput_next {s t : State} {effect : List Byte → State} :
    withInput s effect = .next t ↔ ∃ xs, inputBytes s = some xs ∧ effect xs = t := by
  cases h : inputBytes s <;> simp [withInput, h]

theorem withInput_fault {s : State} {effect : List Byte → State} {f : Fault} :
    withInput s effect = .fault f ↔ inputBytes s = none ∧ f = .unwrittenInput := by
  cases h : inputBytes s <;> simp [withInput, h, eq_comm]

theorem inputBytes_length {s : State} {xs : List Byte} (h : inputBytes s = some xs) : xs.length = s.inLen.toNat :=
  readBytes_length h

end Sys2Proof.Machine
end

