-- ==== Sys2Proof/Laws/Step.lean ====
section
/-! SUPPORT. What a step can do, and what the instructions share: the shape of a codec command's next state (R237), the ends
of a SEND (R220, R222) and the host accesses (R66). -/

namespace Sys2Proof.Machine

/-- R66. -/
theorem hostRead_next {a n : Nat} {s t : State} :
    hostRead a n s = .next t ↔ accessErrorOf s.params a n = none ∧ t = { s with lastRead := readData s a n } := by
  cases h : accessErrorOf s.params a n <;> simp [hostRead, h, eq_comm]

/-- R66. -/
theorem hostWrite_next {a n : Nat} {v : Word} {s t : State} :
    hostWrite a n v s = .next t ↔ accessErrorOf s.params a n = none ∧ t = writePlace a n v s := by
  cases h : accessErrorOf s.params a n <;> simp [hostWrite, h, eq_comm]

/-- The four ways a step answers a next state: it waits, runs an instruction, or completes a host access. -/
theorem step_cases {s t : State} (h : step s = .next t) :
    (fetch s = .wait ∧ t = s) ∨
    (∃ i, fetch s = .run i ∧ exec i (takeInput s) = .next t) ∨
    (∃ a n, fetch s = .read a n ∧ hostRead a n (takeInput s) = .next t) ∨
    ∃ a n v, fetch s = .write a n v ∧ hostWrite a n v (takeInput s) = .next t := by
  simp only [step] at h
  cases hf : fetch s with
  | wait => rw [hf] at h; cases h; exact .inl ⟨rfl, rfl⟩
  | run i => rw [hf] at h; exact .inr (.inl ⟨i, rfl, h⟩)
  | read a n => rw [hf] at h; exact .inr (.inr (.inl ⟨a, n, rfl, h⟩))
  | write a n v => rw [hf] at h; exact .inr (.inr (.inr ⟨a, n, v, rfl, h⟩))
  | reject why => rw [hf] at h; cases h

/-- A step takes the stimulus before the others (R10). -/
theorem step_cons {s : State} {x : Stimulus} {rest : List Stimulus} {i : Instr} (h : requestOf x = .run i) :
    step { s with inputs := x :: rest } = exec i { s with inputs := rest } := by
  simp only [step, fetch, h]; rfl

/-- R103: an RX stimulus is the reception of its byte. -/
theorem requestOf_rxStimulus : ∀ b : Byte, requestOf (rxStimulus b) = .run (.rx b) := by decide +kernel

/-- Presented bytes arrive one a step, the first of them in the next step (R79). -/
theorem step_present (b : Byte) (bs : List Byte) (s : State) :
    step (present (b :: bs) s) = .next (present bs (receive b s)) := by
  rw [← receive_present]
  exact step_cons (s := s) (requestOf_rxStimulus b)

/-- The step of a presented wire token receives the token's first byte and leaves the others to the steps that follow, as RX
stimuli (log 7). -/
theorem exec_wire {i : Instr} {b : Byte} {bs : List Byte} (h : encode i = .wire (b :: bs)) (s : State) :
    exec i s = .next (present bs (receive b s)) := by
  cases i <;> simp only [encode, Encoding.wire.injEq, List.cons.injEq, reduceCtorEq] at h
  all_goals obtain ⟨rfl, rfl⟩ := h; rfl

/-- A codec command changes only RES, OUT_LEN, DEC_INFO and the memory. -/
theorem codec_shape {i : Instr} {s t : State} (hc : isCodec i = true) (h : exec i s = .next t) :
    t = { s with
      resCode := t.resCode, resVok := t.resVok, outLen := t.outLen, decDst := t.decDst, decSrc := t.decSrc
      decConsumed := t.decConsumed, mem := t.mem, outDraw := t.outDraw } := by
  cases i <;> simp only [isCodec, Bool.false_eq_true] at hc
  all_goals
    simp only [exec, execStuff, execDestuff, execChkBcc, execChkCrc, execVerifyBcc, execVerifyCrc, execEncodeBcc,
      execEncodeCrc, execDecodeBcc, execDecodeCrc, checkCompute, checkVerify, encodeCommand, decodeCommandFrame] at h
  all_goals (try split at h)
  all_goals first
    | (cases h; rfl)
    | (obtain ⟨xs, -, rfl⟩ := withInput_next.mp h
       clear h
       try simp only [destuffInput, encodeInput, decodeInput]
       first
         | rfl
         | (split <;> rfl))

/-- R220: SEND is accepted in no wait, with a legal configuration and a body of a legal length. -/
theorem sendRefusal_eq_none {s : State} : sendRefusal s = none ↔
    awaiting s = false ∧ cfgOk s = true ∧ 4 ≤ s.inLen.toNat ∧ s.inLen.toNat + 2 ≤ s.params.maxInterior := by
  simp only [sendRefusal]
  cases h1 : awaiting s <;> cases h2 : cfgOk s <;> simp
  split <;> (try split) <;> simp <;> omega

/-- R222: the body of a SEND is as long as the input. -/
theorem sendBody_length {tns : Half} {s : State} {body : List Byte} (h : sendBody tns s = some body)
    (h4 : 4 ≤ s.inLen.toNat) : body.length = s.inLen.toNat := by
  simp only [sendBody] at h
  split at h
  · next h1 h2 =>
    cases h
    have := readBytes_length h1
    have := readBytes_length h2
    simp; omega
  · cases h

/-- R220, R222: the two ends of a SEND that answers a next state. -/
theorem send_next {s t : State} (h : exec .send s = .next t) :
    (∃ e, sendRefusal s = some e ∧ t = raise e s) ∨
    (sendRefusal s = none ∧ ∃ body, sendBody s.tnsNext s = some body ∧ t = startTransaction body s) := by
  simp only [exec, execSend] at h
  cases hr : sendRefusal s with
  | some e => rw [hr] at h; cases h; exact .inl ⟨e, rfl, rfl⟩
  | none =>
    rw [hr] at h
    cases hb : sendBody s.tnsNext s with
    | some body => rw [hb] at h; cases h; exact .inr ⟨rfl, body, rfl, rfl⟩
    | none => rw [hb] at h; cases h

end Sys2Proof.Machine
end

