-- ==== Sys2Proof/Tests/Slice0.lean ====
section
/-! SUPPORT. Tests of the model. Expected values are those of spec/95_test_vectors.md (its instance: MAX_INTERIOR 32, BUF_SIZE
64, TNS_RESET 0x1234, BASE 0), named by their ids, or follow from the rule named. After them, for every obligation that has
hypotheses, a named witness: concrete values that meet them. -/

namespace Sys2Proof.Tests

open Sys2Proof.Machine

/-! ## Helpers -/

/-- The instance of 95_test_vectors.md. -/
def params : Params := ⟨32, 64, 0, 0x1234⟩

def atReset : State := State.resetWith params

/-- `load` of R105. -/
def loaded (bs : List Byte) : State :=
  { atReset with mem := writeBytes [] inBufBase bs, inLen := BitVec.ofNat 16 bs.length }

/-- The common setup of 95 §2.5, with the input `bs`. -/
def setup (bs : List Byte) : State := { loaded bs with ackTo := 2, replyTo := 5, addrDst := 1 }

/-- The frame TF of 95 §2.5. -/
def tf : List Byte := [0x10, 0x02, 0x01, 0x00, 0x06, 0x00, 0x34, 0x12, 0x10, 0x03, 0xB3]

/-- T5: SEND from the common setup. -/
def inAckWait : State :=
  { setup [0x06, 0x00, 0x00, 0x00] with
    tnsNext := 0x1235, tnsCur := 0x1234, txFrame := tf, txs := tf, retryCount := 1, tmState := .awaitAck, timer := 2 }

/-- T6, with the bytes `bs` of a reply received. -/
def inReplyWait (bs : List Byte) : State := { inAckWait with tmState := .awaitReply, timer := 5, rx := bs }

/-- RP of 95 §2.5 without its last byte 0xC9: a matching reply. -/
def rp : List Byte := [0x10, 0x02, 0x00, 0x01, 0x46, 0x00, 0x34, 0x12, 0xAA, 0x10, 0x03]

/-- RS of 95 §2.5 without its last byte 0xB9: a stale reply. -/
def rs : List Byte := [0x10, 0x02, 0x00, 0x01, 0x46, 0x00, 0x33, 0x12, 0xBB, 0x10, 0x03]

/-- RX3 of 95 §2.5 without its last byte 0x85: a reply too short to correlate. -/
def rx3 : List Byte := [0x10, 0x02, 0x00, 0x01, 0x46, 0x00, 0x34, 0x10, 0x03]

/-- The next state of an outcome. -/
def next? : Host.Outcome State Fault Refusal → Option State
  | .next t => some t
  | .fault _ => none
  | .refused _ => none

/-- One instruction, and what `f` finds in its next state. -/
def after {α : Type} (i : Instr) (s : State) (f : State → α) : Option α := (next? (exec i s)).map f

/-- OUT_BUF[0:OUT_LEN], RES.CODE and RES.VOK. -/
def out (t : State) : Option (List Byte) × ResCode × Bool :=
  (readBytes t.mem outBufBase t.outLen.toNat, t.resCode, t.resVok)

/-- What a test of the link looks at: STATE, RETRY_COUNT, TIMER, RX_LEN and `txs`. -/
structure Link where
  tmState : TmState
  retryCount : BitVec 8
  timer : Word
  rxLen : Nat
  txs : List Byte
  deriving DecidableEq, Repr

def link (t : State) : Link := ⟨t.tmState, t.retryCount, t.timer, t.rx.length, t.txs⟩

/-! ## Well-formedness and encodings -/

/-- 0x02 is STUFF's code, not a reserved one (R100, R101). -/
theorem test_wf_refuses_assigned_code : (Instr.reserved 0x02).wf = false ∧ (Instr.reserved 0x03).wf = true := by decide

/-- R100: the codes written bit by bit. -/
theorem test_decode_codec_codes :
    decodeStimulus 0b0000000010#10 = .ok .stuff ∧ decodeStimulus 0b0000000100#10 = .ok .destuff ∧
    decodeStimulus 0b0000000110#10 = .ok .chkBcc ∧ decodeStimulus 0b0000000111#10 = .ok .chkCrc ∧
    decodeStimulus 0b0000001000#10 = .ok .verifyBcc ∧ decodeStimulus 0b0000001001#10 = .ok .verifyCrc := by decide

theorem test_decode_frame_codes :
    decodeStimulus 0b0000001010#10 = .ok .encodeBcc ∧ decodeStimulus 0b0000001011#10 = .ok .encodeCrc ∧
    decodeStimulus 0b0000001100#10 = .ok .decodeBcc ∧ decodeStimulus 0b0000001101#10 = .ok .decodeCrc := by decide

theorem test_decode_transaction_codes :
    decodeStimulus 0b0000001110#10 = .ok .send ∧ decodeStimulus 0b0000010000#10 = .ok .cancel ∧
    decodeStimulus 0b0000001111#10 = .ok (.reserved 0b00001111) := by decide

/-- R103: the words of 95 §4, P2. -/
theorem test_decode_events :
    decodeStimulus 0b0100010101#10 = .ok (.rx 0x15) ∧ decodeStimulus 0b1000000000#10 = .ok .tick ∧
    decodeStimulus 0b1100000000#10 = .ok .reset ∧ decodeStimulus 0b1100000001#10 = .error .notAStimulus := by decide

/-- R91, R92: the tokens' bytes. -/
theorem test_decode_wire :
    decodeWire [0b00010000, 0b00000010] = .ok .wireStartDelim ∧ decodeWire [0b00010000, 0b00000011] = .ok .wireEndDelim ∧
    decodeWire [0b00010000, 0b00010000] = .ok .wireDleDle ∧ decodeWire [0b00000110] = .ok .wireAck ∧
    decodeWire [0b00010101] = .ok .wireNak ∧ decodeWire [0b00000101] = .ok .wireEnq ∧
    decodeWire [0b00000010] = .error .notAWireToken := by decide

/-! ## Instructions -/

/-- S5. -/
theorem test_stuff : after .stuff (loaded [0x01, 0x10, 0x02]) out = some (some [0x01, 0x10, 0x10, 0x02], .ok, false) := by
  decide

/-- D2. -/
theorem test_destuff :
    after .destuff (loaded [0x01, 0x10, 0x10, 0x02]) out = some (some [0x01, 0x10, 0x02], .ok, false) := by decide

/-- D11. -/
theorem test_destuff_odd_run : after .destuff (loaded [0x10, 0x10, 0x10]) out = some (some [], .malformed, false) := by decide

/-- K8. -/
theorem test_chk_bcc :
    after .chkBcc (loaded [0x01, 0x00, 0x06, 0x00, 0x34, 0x12]) out = some (some [0xB3], .ok, false) := by decide

/-- K9. -/
theorem test_chk_crc :
    after .chkCrc (loaded [0x31, 0x32, 0x33, 0x34, 0x35, 0x36, 0x37, 0x38, 0x39]) out =
      some (some [0x3D, 0xBB], .ok, false) := by decide +kernel

/-- V1. -/
theorem test_verify_bcc : after .verifyBcc (loaded [0x01, 0x02, 0x03, 0xFA]) out = some (some [], .ok, true) := by decide

/-- V2. -/
theorem test_verify_bcc_mismatch : after .verifyBcc (loaded [0x01, 0x02, 0x03, 0xFB]) out = some (some [], .ok, false) := by
  decide

/-- V8. -/
theorem test_verify_crc_order : after .verifyCrc (loaded [0x01, 0x02, 0x03, 0xA1, 0x10]) out = some (some [], .ok, false) := by
  decide +kernel

/-- V5. -/
theorem test_verify_crc_short : after .verifyCrc (loaded [0x00]) out = some (some [], .short, false) := by decide

/-- E1. -/
theorem test_encode_bcc : after .encodeBcc (setup [0x06, 0x00, 0x34, 0x12]) out = some (some tf, .ok, false) := by decide

/-- E7: a check byte equal to DLE is not stuffed. -/
theorem test_encode_crc :
    after .encodeCrc { loaded [0x03] with addrSrc := 2, addrDst := 1 } out =
      some (some [0x10, 0x02, 0x01, 0x02, 0x03, 0x10, 0x03, 0x10, 0xA1], .ok, false) := by decide +kernel

/-- DC22. -/
theorem test_decode_bcc :
    after .decodeBcc (loaded (tf ++ [0x10, 0x02])) (fun t => (out t, decInfoWord t)) =
      some ((some [0x06, 0x00, 0x34, 0x12], .ok, false), 0x000B0001) := by decide

/-- DC15. -/
theorem test_decode_bcc_short_interior :
    after .decodeBcc (loaded [0x10, 0x02, 0x01, 0x10, 0x03, 0xFF]) (fun t => (out t, decInfoWord t)) =
      some ((some [], .malformed, false), 0x00060000) := by decide

/-- DC27. -/
theorem test_decode_crc :
    after .decodeCrc (loaded [0x10, 0x02, 0x01, 0x02, 0x03, 0x10, 0x03, 0x10, 0xA1]) (fun t => (out t, decInfoWord t)) =
      some ((some [0x03], .ok, false), 0x00090201) := by decide +kernel

/-- DC23. -/
theorem test_decode_crc_incomplete :
    after .decodeCrc (loaded tf) (fun t => (out t, decInfoWord t)) = some ((some [], .incomplete, false), 0) := by decide

/-- T5. -/
theorem test_send :
    after .send (setup [0x06, 0x00, 0x00, 0x00]) (fun t => (link t, t.tnsCur, t.tnsNext)) =
      some (⟨.awaitAck, 1, 2, 0, tf⟩, 0x1234, 0x1235) := by decide

/-- T1. -/
theorem test_send_config :
    after .send (loaded [0x06, 0x00, 0x00, 0x00]) (fun t => (t.resCode, link t)) =
      some (.config, ⟨.idle, 0, 0, 0, []⟩) := by decide

/-- P4, steps 15 to 17: CANCEL keeps RETRY_COUNT and the reply registers. -/
theorem test_cancel :
    after .cancel { inAckWait with tmState := .matched, timer := 0, retryCount := 2, replyLen := 4 }
      (fun t => (tmStatusWord t, t.replyLen, t.resCode)) = some (0x00020000, 4, .ok) := by decide

/-- H10. -/
theorem test_reserved : after (.reserved 0x0F) (loaded [0x01]) out = some (some [], .illegal, false) := by decide

/-- T7. -/
theorem test_rx_nak : after (.rx 0x15) inAckWait link = some ⟨.awaitAck, 2, 2, 0, tf ++ tf⟩ := by decide

/-- T9: the last byte of RP; STS 00, DST 00, SRC 01. -/
theorem test_rx_match :
    after (.rx 0xC9) (inReplyWait rp)
        (fun t => (link t, replyInfoWord t, readBytes t.mem replyBufBase t.replyLen.toNat)) =
      some (⟨.matched, 1, 0, 0, tf ++ [0x06]⟩, 0x00010000, some [0x46, 0x00, 0x34, 0x12, 0xAA]) := by decide

/-- T8: the second tick. -/
theorem test_tick_retry : after .tick { inAckWait with timer := 1 } link = some ⟨.awaitAck, 2, 2, 0, tf ++ tf⟩ := by decide

/-- T22: the last attempt fails at the reply stage. -/
theorem test_tick_no_reply :
    after .tick { inReplyWait [] with maxRetries := 1, timer := 1 } (fun t => (link t, t.fail)) =
      some (⟨.failed, 1, 0, 0, tf⟩, .noReply) := by decide

/-- P4, steps 18 to 22. -/
theorem test_reset :
    after .reset inAckWait (fun t => (tmStatusWord t, tnsWord t, cfgWord t, t.ackTo, t.txs)) =
      some (0, 0x12340000, 0x00000300, 0, []) := by decide

/-- R226: the DLE of START_DELIM stays in `rx`, and its STX is the next stimulus (R79): the word 01 and 02 (R103). -/
theorem test_wire_start_delim :
    after .wireStartDelim (inReplyWait []) (fun t => (link t, t.inputs)) =
      some (⟨.awaitReply, 1, 5, 1, tf⟩, [.coded (.stimulus 0b0100000010#10)]) := by decide

/-- R226: END_DELIM's DLE after the STX of a start delimiter; its ETX comes next. -/
theorem test_wire_end_delim :
    after .wireEndDelim (inReplyWait [0x10, 0x02]) (fun t => (link t, t.inputs)) =
      some (⟨.awaitReply, 1, 5, 3, tf⟩, [.coded (.stimulus 0b0100000011#10)]) := by decide

/-- T18: in AWAIT_ACK the first of the two bytes costs an attempt, and so will the second, in its own step. -/
theorem test_wire_dle_dle :
    after .wireDleDle inAckWait (fun t => (link t, t.inputs)) =
        some (⟨.awaitAck, 2, 2, 0, tf ++ tf⟩, [.coded (.stimulus 0b0100010000#10)]) ∧
    ((next? (exec .wireDleDle inAckWait)).bind (fun t => next? (step t))).map link =
      some ⟨.awaitAck, 3, 2, 0, tf ++ tf ++ tf⟩ := by decide

/-- T6. -/
theorem test_wire_ack : after .wireAck inAckWait link = some ⟨.awaitReply, 1, 5, 0, tf⟩ := by decide

/-- T7c: the last attempt; TM_STATUS 0x00030014. -/
theorem test_wire_nak :
    after .wireNak { inAckWait with retryCount := 3 } (fun t => (tmStatusWord t, t.timer)) = some (0x00030014, 0) := by decide

/-- R226: ENQ between frames is dropped. -/
theorem test_wire_enq : after .wireEnq (inReplyWait []) link = some ⟨.awaitReply, 1, 5, 0, tf⟩ := by decide

/-! ## Host accesses and steps -/

/-- H1 to H4 and H7. -/
theorem test_access_errors :
    accessErrorOf params 0x002 2 = some .wrongWidth ∧ accessErrorOf params 0x006 4 = some .misaligned ∧
    accessErrorOf params 0x040 4 = some .unmapped ∧ accessErrorOf params 0x10001 4 = some .misaligned ∧
    accessErrorOf params 0x10040 1 = some .unmapped ∧ accessErrorOf params 0x1003F 1 = none := by decide

/-- H5. -/
theorem test_word_write :
    (next? (hostWrite 0x10000 4 0x12340006 atReset)).map (fun t => readBytes t.mem 0x10000 4) =
      some (some [0x06, 0x00, 0x34, 0x12]) := by decide

/-- T21. -/
theorem test_in_len_write : (next? (hostWrite 0x018 4 100 atReset)).map (·.inLen) = some 0x40 := by decide

/-- L1-7: a word read of REPLY_BUF. -/
theorem test_word_read :
    (next? (hostRead 0x30004 4 { atReset with
      mem := writeBytes [] 0x30000 [0x4F, 0x00, 0x34, 0x12, 0x0B, 0x00, 0x0C, 0x00], replyLen := 8 })).map (·.lastRead) =
      some (.word 0x000C000B) := by decide

/-- RES as a host reads it: V1 (OK, VOK 1), V4 (E_SHORT) and P5, steps 5, 12 and 17 (E_CONFIG, E_ILLEGAL, E_BUSY). -/
theorem test_res_word :
    after .verifyBcc (loaded [0x01, 0x02, 0x03, 0xFA]) (registerWord · 0x004) = some 0x00000100 ∧
    after .verifyBcc (loaded []) (registerWord · 0x004) = some 0x00000008 ∧
    after .send (loaded [0x06, 0x00, 0x00, 0x00]) (registerWord · 0x004) = some 0x00000006 ∧
    after (.reserved 0x0F) inAckWait (registerWord · 0x004) = some 0x00000004 ∧
    after .send inAckWait (registerWord · 0x004) = some 0x00000005 := by decide

/-- H5, presented as a stimulus: its step stores the word, and the step of the read after it gets its third byte. -/
theorem test_step_host_accesses :
    (((next? (step { atReset with inputs := [.memWrite 0x10000 4 0x12340006, .memRead 0x10002 1] })).bind
      (fun t => next? (step t))).map (fun t => (t.lastRead, t.inputs.length))) = some (.byte 0x34, 0) := by decide

/-- R23: a write to CMD runs the command. -/
theorem test_step_command_write :
    (next? (step { loaded [0x01] with inputs := [.memWrite 0x000 4 0x06] })).map (fun t => (out t, t.inputs)) =
      some ((some [0xFF], .ok, false), []) := by decide

/-- Each row of the opcode table, presented after reset, answers a next state. -/
theorem test_rows_run_from_reset :
    [0x02, 0x04, 0x06, 0x07, 0x08, 0x09, 0x0A, 0x0B, 0x0C, 0x0D, 0x0E, 0x10, 0xFF].all
      (fun w => (next? (step (State.reset.withFetchWord 8 w))).isSome) = true ∧
    [0x1FF, 0x200, 0x300, 0x1002, 0x1003, 0x1010].all
      (fun w => (next? (step (State.reset.withFetchWord 16 w))).isSome) = true := by decide

/-! ## Witnesses: states that meet the invariant -/

theorem inv_loaded : Inv (loaded [0x01, 0x10, 0x10, 0x02]) :=
  ⟨by decide, by decide, by decide, by decide, by decide, by decide, by decide, by decide, by decide, by decide, by decide,
    by decide, by decide⟩

theorem inv_setup : Inv (setup [0x06, 0x00, 0x00, 0x00]) :=
  ⟨by decide, by decide, by decide, by decide, by decide, by decide, by decide, by decide, by decide, by decide, by decide,
    by decide, by decide⟩

theorem inv_ack_wait : Inv inAckWait :=
  ⟨by decide, by decide, by decide, by decide, by decide, by decide, by decide, by decide, by decide, by decide, by decide,
    by decide, by decide⟩

theorem inv_reply_wait : Inv (inReplyWait []) :=
  ⟨by decide, by decide, by decide, by decide, by decide, by decide, by decide, by decide, by decide, by decide, by decide,
    by decide, by decide⟩

theorem inv_match : Inv (inReplyWait rp) :=
  ⟨by decide, by decide, by decide, by decide, by decide, by decide, by decide, by decide, by decide, by decide, by decide,
    by decide, by decide⟩

theorem inv_stale : Inv (inReplyWait rs) :=
  ⟨by decide, by decide, by decide, by decide, by decide, by decide, by decide, by decide, by decide, by decide, by decide,
    by decide, by decide⟩

theorem inv_short : Inv (inReplyWait rx3) :=
  ⟨by decide, by decide, by decide, by decide, by decide, by decide, by decide, by decide, by decide, by decide, by decide,
    by decide, by decide⟩

theorem inv_last_reply_wait : Inv { inReplyWait rp with retryCount := 3 } :=
  ⟨by decide, by decide, by decide, by decide, by decide, by decide, by decide, by decide, by decide, by decide, by decide,
    by decide, by decide⟩

/-! ## Witnesses: the hypotheses of each obligation -/

theorem witness_DecodeOfEncodeIsTheInstruction :
    (Instr.rx 0xFF).wf = true ∧ (Instr.reserved 0x00).wf = true ∧ Instr.wireEnq.wf = true := by decide

theorem witness_EncodeOfDecodeIsTheEncoding :
    decode (.stimulus 0b0011111111#10) = .ok (.reserved 0xFF) ∧ decode (.wire [0x10, 0x02]) = .ok .wireStartDelim := by decide

theorem witness_StimulusWordsReadByTheirTopBits :
    (0b1000000001#10).getLsbD 9 = true ∧ 0b1000000001#10 ≠ 0b1000000000#10 ∧ 0b1000000001#10 ≠ 0b1100000000#10 ∧
    (0b1111111111#10).getLsbD 9 = true := by decide

theorem witness_ReservedCodesAreIllegal :
    0x00#8 ∉ [0x02#8, 0x04#8, 0x06#8, 0x07#8, 0x08#8, 0x09#8, 0x0A#8, 0x0B#8, 0x0C#8, 0x0D#8, 0x0E#8, 0x10#8] ∧
    0x0F#8 ∉ [0x02#8, 0x04#8, 0x06#8, 0x07#8, 0x08#8, 0x09#8, 0x0A#8, 0x0B#8, 0x0C#8, 0x0D#8, 0x0E#8, 0x10#8] := by decide

theorem witness_StepRunsTheDecodedInstruction :
    ({ loaded [0x01] with inputs := [.coded (.stimulus 0b0000000010#10)] } : State).inputs =
      .coded (.stimulus 0b0000000010#10) :: [] ∧ decode (.stimulus 0b0000000010#10) = .ok .stuff ∧
    decode (.stimulus 0b1000000001#10) = .error .notAStimulus ∧
    ({ atReset with inputs := [.memRead 0x03C 4] } : State).inputs = .memRead 0x03C 4 :: [] ∧
    ({ atReset with inputs := [.memWrite 0x000 1 0] } : State).inputs = .memWrite 0x000 1 0 :: [] ∧
    ¬((0x000 : Nat) = 0 ∧ (1 : Nat) = 4) ∧ ¬((0x004 : Nat) = 0 ∧ (4 : Nat) = 4) ∧ atReset.inputs = [] := by decide

theorem witness_HostReadsAreIdempotent :
    (∃ t, hostRead 0x03C 4 inAckWait = .next t) ∧ ∃ t, hostRead 0x1003F 1 inAckWait = .next t := ⟨⟨_, rfl⟩, ⟨_, rfl⟩⟩

theorem witness_RegisterAndUnmappedAccessRules : params.Legal ∧ params.bufSize = 64 ∧ params.maxInterior - 2 = 30 := by decide

theorem witness_BufferAccessRules :
    (∃ t, hostRead 0x1003C 4 (loaded []) = .next t) ∧ (∃ t, hostRead 0x20000 4 (loaded []) = .next t) ∧
    (∃ t, hostRead 0x30018 4 (loaded []) = .next t) ∧ (∃ t, hostWrite (0x10000 + 60) 4 0xFFFFFFFF (loaded []) = .next t) ∧
    readByte (writeBytes [] 0x1003F [0xAB]) (0x10000 + 63) = some 0xAB ∧ 63 < params.bufSize ∧
    readByte (writeBytes [] 0x20085 [0xAB]) (0x20000 + 133) = some 0xAB ∧ 133 < 2 * params.bufSize + 6 ∧
    133 < ({ loaded [] with outLen := 134 } : State).outLen.toNat ∧
    readByte (writeBytes [] 0x3001D [0xAB]) (0x30000 + 29) = some 0xAB ∧ 29 < params.maxInterior - 2 ∧
    29 < ({ loaded [] with replyLen := 30 } : State).replyLen.toNat :=
  ⟨⟨_, rfl⟩, ⟨_, rfl⟩, ⟨_, rfl⟩, ⟨_, rfl⟩, by decide⟩

theorem witness_AccessErrorsAreRefused :
    accessErrorOf atReset.params 0x40000 1 = some .unmapped ∧ accessErrorOf atReset.params 0x2003C 4 = none ∧
    ¬((0x2003C : Nat) = 0 ∧ (4 : Nat) = 4) ∧ accessErrorOf atReset.params 0x000 4 = none := by decide

theorem witness_ConfigurationWritesAreDroppedInAWait :
    inAckWait.tmState = .awaitAck ∧ (inReplyWait []).tmState = .awaitReply ∧ atReset.tmState ≠ .awaitAck ∧
    atReset.tmState ≠ .awaitReply := by decide

theorem witness_ReadOnlyWritesAreIgnored :
    atReset.params.Legal ∧ accessErrorOf atReset.params 0x004 4 = none ∧ accessErrorOf atReset.params 0x01C 4 = none ∧
    accessErrorOf atReset.params 0x03C 4 = none ∧ accessErrorOf atReset.params 0x20000 1 = none ∧
    accessErrorOf atReset.params 0x3001D 1 = none := by decide

theorem witness_HostWritesLeaveTheRestAlone :
    atReset.params.Legal ∧ (∃ t, hostWrite 0x018 4 5 atReset = .next t) ∧ (∃ t, hostWrite 0x10000 1 5 atReset = .next t) ∧
    ∃ t, hostWrite 0x30000 4 5 atReset = .next t := ⟨by decide, ⟨_, rfl⟩, ⟨_, rfl⟩, ⟨_, rfl⟩⟩

theorem witness_DestuffInvertsStuff : destuff [0x01, 0x10, 0x10, 0x02] = some [0x01, 0x10, 0x02] := by decide

theorem witness_DestuffFailsExactlyOnOddRuns :
    destuff [0x10, 0x10, 0x05] = some [0x10, 0x05] ∧ destuff [0x03] = some [0x03] ∧
    ([0x01#8] : List Byte).getLast? ≠ some 0x10#8 ∧ ([] : List Byte).head? ≠ some 0x10#8 := by decide

theorem witness_StuffCommandWritesTheStuffedInput :
    Inv (loaded [0x01, 0x10, 0x10, 0x02]) ∧ inputBytes (loaded [0x01, 0x10, 0x10, 0x02]) = some [0x01, 0x10, 0x10, 0x02] :=
  ⟨inv_loaded, by decide⟩

theorem witness_DestuffCommandWritesTheDestuffedInput :
    (Inv (loaded [0x01, 0x10, 0x10, 0x02]) ∧
      inputBytes (loaded [0x01, 0x10, 0x10, 0x02]) = some [0x01, 0x10, 0x10, 0x02] ∧
      destuff [0x01, 0x10, 0x10, 0x02] = some [0x01, 0x10, 0x02]) ∧
    Inv (setup [0x06, 0x00, 0x00, 0x00]) ∧
    (Inv { loaded [0x01, 0x10, 0x10, 0x02] with inLen := 2 } ∧
      inputBytes { loaded [0x01, 0x10, 0x10, 0x02] with inLen := 2 } = some [0x01, 0x10] ∧ destuff [0x01, 0x10] = none) :=
  ⟨⟨inv_loaded, by decide, by decide⟩, inv_setup,
    ⟨by decide, by decide, by decide, by decide, by decide, by decide, by decide, by decide, by decide, by decide,
      by decide, by decide, by decide⟩, by decide, by decide⟩

theorem witness_SingleBitFlipsChangeTheCheckValue : (0 < 8 ∧ 7 < 8) ∧ (0x01#8 ^^^ (1#8 <<< 7)) = 0x81#8 := by decide

theorem witness_CheckCommandsWriteTheCheckValue :
    inputBytes (loaded []) = some [] ∧ inputBytes (loaded [0xFF]) = some [0xFF] := by decide

theorem witness_VerifyCommandsCompareTheCheckBytes :
    (loaded []).inLen.toNat < 1 ∧ (loaded [0x00]).inLen.toNat < 2 ∧ inputBytes (loaded [0x00]) = some ([] ++ [0x00]) ∧
    inputBytes (loaded [0x01, 0x10, 0xA1]) = some ([0x01] ++ [0x10, 0xA1]) := by decide

/-- E11 and E12: bodies of 30 and of 31 bytes. -/
theorem witness_EncodedFrameLayoutAndLength :
    32 < (List.replicate 31 (0x00#8)).length + 2 ∧ (List.replicate 30 (0x00#8)).length + 2 ≤ 32 := by decide

theorem witness_DecodeOfEncodedFrame : encodeFrame 32 0x00 0x01 [0x06, 0x00, 0x34, 0x12] .bcc = some tf := by decide

theorem witness_DecodingIsResumable :
    decodeFrame 32 .bcc tf ≠ .incomplete ∧ decodeFrame 32 .bcc [0x10, 0x02] = .incomplete := by decide

/-- For each clause, the cases at its bounds: DC1, an interior of MAX_INTERIOR bytes and the byte beyond it, an interior of one
byte, and a bad BCC of the frame TF. -/
theorem witness_ConsumedBytesAreInTheBuffer :
    decodeFrame 32 .bcc [] = .incomplete ∧ (0x11#8 ≠ 0x10 ∧ 0x03#8 ≠ 0x02) ∧
    ((List.replicate 32 0x10#8).length ≤ 32 ∧ 0x02#8 ≠ 0x10 ∧ 0x02#8 ≠ 0x03) ∧ (List.replicate 32 0x10#8).length = 32 ∧
    ([0x01#8].length < 2 ∧ [0x01#8].length ≤ 32 ∧ [0xFF#8].length = checkLen .bcc) ∧
    (2 ≤ [0x01#8, 0x00, 0x06, 0x00, 0x34, 0x12].length ∧ [0x01#8, 0x00, 0x06, 0x00, 0x34, 0x12].length ≤ 32 ∧
      [0xB4#8].length = checkLen .bcc ∧ [0xB4#8] ≠ chk .bcc [0x01, 0x00, 0x06, 0x00, 0x34, 0x12]) ∧
    decodeFrame 32 .bcc (tf ++ [0x10, 0x02]) = .ok 11 0x01 0x00 [0x06, 0x00, 0x34, 0x12] := by decide +kernel

/-- DC23 and DC24; and the interior 01 00 2E, whose BCC D1 is the low byte of its CRC 0xDCD1, where the check bytes agree. -/
theorem witness_KindMismatch :
    encodeFrame 32 0x00 0x01 [0x06, 0x00, 0x34, 0x12] .bcc = some tf ∧
    [bcc [0x01, 0x00, 0x06, 0x00, 0x34, 0x12], 0x00#8] ≠ chk .crc [0x01, 0x00, 0x06, 0x00, 0x34, 0x12] ∧
    (∃ g, encodeFrame 32 0x00 0x01 [0x06, 0x00, 0x34, 0x12] .crc = some g) ∧
    (crc16 [0x01, 0x00, 0x06, 0x00, 0x34, 0x12]).extractLsb' 0 8 ≠ bcc [0x01, 0x00, 0x06, 0x00, 0x34, 0x12] ∧
    (∃ f, encodeFrame 32 0x00 0x01 [0x2E] .bcc = some f) ∧ [bcc [0x01, 0x00, 0x2E], 0xDC] = chk .crc [0x01, 0x00, 0x2E] ∧
    (∃ g, encodeFrame 32 0x00 0x01 [0x2E] .crc = some g) ∧
    (crc16 [0x01, 0x00, 0x2E]).extractLsb' 0 8 = bcc [0x01, 0x00, 0x2E] :=
  ⟨by decide, by decide +kernel, ⟨_, rfl⟩, by decide +kernel, ⟨_, rfl⟩, by decide +kernel, ⟨_, rfl⟩, by decide +kernel⟩

theorem witness_EncodeCommandsWriteTheFrame :
    (Inv { loaded [0x01, 0x10, 0x10, 0x02] with inLen := 31 } ∧
      ({ loaded [0x01, 0x10, 0x10, 0x02] with inLen := 31 } : State).params.maxInterior < 31 + 2) ∧
    Inv (setup [0x06, 0x00, 0x00, 0x00]) ∧
    (setup [0x06, 0x00, 0x00, 0x00]).inLen.toNat + 2 ≤ (setup [0x06, 0x00, 0x00, 0x00]).params.maxInterior ∧
    inputBytes (setup [0x06, 0x00, 0x00, 0x00]) = some [0x06, 0x00, 0x00, 0x00] :=
  ⟨⟨⟨by decide, by decide, by decide, by decide, by decide, by decide, by decide, by decide, by decide, by decide,
      by decide, by decide, by decide⟩, by decide⟩, inv_setup, by decide, by decide⟩

theorem witness_DecodeCommandsReportTheFrame :
    Inv (loaded [0x01, 0x10, 0x10, 0x02]) ∧ inputBytes (loaded [0x01, 0x10, 0x10, 0x02]) = some [0x01, 0x10, 0x10, 0x02] :=
  ⟨inv_loaded, by decide⟩

theorem witness_CodecCommandsFrame :
    (isCodec .encodeCrc = true ∧ ∃ t, exec .encodeCrc (setup [0x03]) = .next t) ∧
    (isCodec .verifyBcc = true ∧ ∃ t, exec .verifyBcc (loaded []) = .next t) := ⟨⟨rfl, ⟨_, rfl⟩⟩, ⟨rfl, ⟨_, rfl⟩⟩⟩

theorem witness_CodecCommandsIgnoreTheTransaction :
    isCodec .stuff = true ∧ (∃ t, exec .stuff inAckWait = .next t) ∧
    exec .stuff { atReset with inLen := 1 } = .fault .unwrittenInput := ⟨rfl, ⟨_, rfl⟩, rfl⟩

/-- T4, T1, T2 and T3: for each check, a state in which it is the first to fail. -/
theorem witness_SendChecksInOrder :
    inAckWait.tmState = .awaitAck ∧
    ((loaded []).tmState = .idle ∧ (loaded []).ackTo.toNat = 0) ∧
    ((setup [0x06, 0x00, 0x00]).tmState = .idle ∧ cfgOk (setup [0x06, 0x00, 0x00]) = true ∧
      (setup [0x06, 0x00, 0x00]).inLen.toNat < 4) ∧
    (({ setup [] with inLen := 31 } : State).tmState = .idle ∧ cfgOk { setup [] with inLen := 31 } = true ∧
      4 ≤ ({ setup [] with inLen := 31 } : State).inLen.toNat ∧
      ({ setup [] with inLen := 31 } : State).params.maxInterior < ({ setup [] with inLen := 31 } : State).inLen.toNat + 2) := by
  decide

theorem witness_AcceptedSendStartsATransaction :
    (setup [0x06, 0x00, 0x00, 0x00]).tmState ≠ .awaitAck ∧ (setup [0x06, 0x00, 0x00, 0x00]).tmState ≠ .awaitReply ∧
    cfgOk (setup [0x06, 0x00, 0x00, 0x00]) = true ∧ 4 ≤ (setup [0x06, 0x00, 0x00, 0x00]).inLen.toNat ∧
    (setup [0x06, 0x00, 0x00, 0x00]).inLen.toNat + 2 ≤ (setup [0x06, 0x00, 0x00, 0x00]).params.maxInterior ∧
    inputBytes (setup [0x06, 0x00, 0x00, 0x00]) = some [0x06, 0x00, 0x00, 0x00] := by decide

theorem witness_SendIgnoresTheHostsTnsBytes :
    sendRefusal (setup [0x06, 0x00, 0x00, 0x00]) = none ∧ ∃ t, exec .send (setup [0x06, 0x00, 0x00, 0x00]) = .next t :=
  ⟨by decide, ⟨_, rfl⟩⟩

theorem witness_TnsAdvancesAtAcceptedSendsOnly :
    (∃ t, step { setup [0x06, 0x00, 0x00, 0x00] with inputs := [.coded (.stimulus 0b0000001110#10)] } = .next t) ∧
    (∃ t, step { inAckWait with inputs := [.coded (.stimulus 0b1100000000#10)] } = .next t) ∧
    ∃ t, step { inAckWait with inputs := [.coded (.stimulus 0b1000000000#10)] } = .next t := ⟨⟨_, rfl⟩, ⟨_, rfl⟩, ⟨_, rfl⟩⟩

theorem witness_TickCountsDownAndFailsTheAttempt :
    (atReset.tmState ≠ .awaitAck ∧ atReset.tmState ≠ .awaitReply) ∧
    (inAckWait.tmState = .awaitAck ∧ 2 ≤ inAckWait.timer.toNat) ∧
    (({ inReplyWait [] with timer := 1 } : State).tmState = .awaitReply ∧ ({ inReplyWait [] with timer := 1 } : State).timer = 1 ∧
      ({ inReplyWait [] with timer := 1 } : State).retryCount.toNat < ({ inReplyWait [] with timer := 1 } : State).maxRetries.toNat) ∧
    (({ inAckWait with timer := 1, retryCount := 3 } : State).tmState = .awaitAck ∧
      ({ inAckWait with timer := 1, retryCount := 3 } : State).timer = 1 ∧
      ({ inAckWait with timer := 1, retryCount := 3 } : State).maxRetries.toNat ≤
        ({ inAckWait with timer := 1, retryCount := 3 } : State).retryCount.toNat) := by decide

theorem witness_ByteInAckWait :
    inAckWait.tmState = .awaitAck ∧ inAckWait.rx = [] ∧ inAckWait.retryCount.toNat < inAckWait.maxRetries.toNat ∧
    ({ inAckWait with retryCount := 3 } : State).maxRetries.toNat ≤
      ({ inAckWait with retryCount := 3 } : State).retryCount.toNat := by decide

theorem witness_HandshakeAndPartialFrameInReplyWait :
    ((inReplyWait []).tmState = .awaitReply ∧ (inReplyWait []).rx = []) ∧
    decodeFrame 32 .bcc ((inReplyWait [0x10]).rx ++ [0x02]) = .incomplete := by decide

/-- A byte that starts no frame, and RP with a bad BCC, on an attempt that is and on one that is not the last. -/
theorem witness_BadReplyFailsTheAttempt :
    (Inv (inReplyWait []) ∧ (inReplyWait []).tmState = .awaitReply ∧
      decodeFrame 32 .bcc ((inReplyWait []).rx ++ [0x00]) = .malformed 1) ∧
    (Inv (inReplyWait rp) ∧ (inReplyWait rp).tmState = .awaitReply ∧ (inReplyWait rp).rx ≠ [] ∧
      decodeFrame 32 .bcc ((inReplyWait rp).rx ++ [0xC8]) = .checksum 12) ∧
    (Inv { inReplyWait rp with retryCount := 3 } ∧
      ({ inReplyWait rp with retryCount := 3 } : State).maxRetries.toNat ≤
        ({ inReplyWait rp with retryCount := 3 } : State).retryCount.toNat) :=
  ⟨⟨inv_reply_wait, by decide, by decide⟩, ⟨inv_match, by decide, by decide, by decide⟩, inv_last_reply_wait, by decide⟩

theorem witness_CorrelatingReplyMatches :
    Inv (inReplyWait rp) ∧ (inReplyWait rp).tmState = .awaitReply ∧
    decodeFrame 32 .bcc ((inReplyWait rp).rx ++ [0xC9]) = .ok 12 0x00 0x01 [0x46, 0x00, 0x34, 0x12, 0xAA] ∧
    (0x34#8).toNat + 256 * (0x12#8).toNat = (inReplyWait rp).tnsCur.toNat := ⟨inv_match, by decide, by decide, by decide⟩

theorem witness_StaleReplyIsDiscarded :
    (Inv (inReplyWait rs) ∧ (inReplyWait rs).tmState = .awaitReply ∧
      decodeFrame 32 .bcc ((inReplyWait rs).rx ++ [0xB9]) = .ok 12 0x00 0x01 [0x46, 0x00, 0x33, 0x12, 0xBB] ∧
      (0x33#8).toNat + 256 * (0x12#8).toNat ≠ (inReplyWait rs).tnsCur.toNat) ∧
    (Inv (inReplyWait rx3) ∧ (inReplyWait rx3).tmState = .awaitReply ∧
      decodeFrame 32 .bcc ((inReplyWait rx3).rx ++ [0x85]) = .ok 10 0x00 0x01 [0x46, 0x00, 0x34]) :=
  ⟨⟨inv_stale, by decide, by decide, by decide⟩, inv_short, by decide, by decide⟩

theorem witness_BytesAndTicksOutsideAWaitAreIgnored :
    atReset.tmState = .idle ∧ ({ inAckWait with tmState := .matched } : State).tmState = .matched ∧
    ({ inAckWait with tmState := .failed } : State).tmState = .failed := by decide

theorem witness_StateChangesOnlyAsTheTableSays :
    (Inv (setup [0x06, 0x00, 0x00, 0x00]) ∧ ∃ t, exec .send (setup [0x06, 0x00, 0x00, 0x00]) = .next t) ∧
    (Inv inAckWait ∧ ∃ t, exec (.rx 0x06) inAckWait = .next t) ∧ ∃ t, exec .wireEndDelim inAckWait = .next t :=
  ⟨⟨inv_setup, ⟨_, rfl⟩⟩, ⟨inv_ack_wait, ⟨_, rfl⟩⟩, ⟨_, rfl⟩⟩

theorem witness_OnlyFramesAndAcksAreTransmitted :
    (∃ t, step { inAckWait with inputs := [.coded (.wire [0x15])] } = .next t) ∧
    fetch { inAckWait with inputs := [.coded (.wire [0x15])] } ≠ .run .reset := ⟨⟨_, rfl⟩, by decide⟩

theorem witness_RetryBoundWithoutAck :
    Inv (setup [0x06, 0x00, 0x00, 0x00]) ∧
    (∃ u, exec .send (setup [0x06, 0x00, 0x00, 0x00]) = .next u ∧ u.resCode = .ok) ∧
    ∀ e ∈ [Instr.tick, Instr.rx 0x15], e = .tick ∨ ∃ b, b ≠ 0x06#8 ∧ e = .rx b :=
  ⟨inv_setup, ⟨_, rfl, rfl⟩, by simp⟩

theorem witness_BytesBeforeTheAckCostAttempts :
    Inv (setup [0x06, 0x00, 0x00, 0x00]) ∧
    (∃ u, exec .send (setup [0x06, 0x00, 0x00, 0x00]) = .next u ∧ u.resCode = .ok) ∧
    (∀ b ∈ [0x15#8, 0x41#8], b ≠ 0x06) ∧ [0x15#8, 0x41#8].length < 3 ∧ 3 ≤ [0x15#8, 0x41#8, 0x15#8].length :=
  ⟨inv_setup, ⟨_, rfl, rfl⟩, by decide, by decide, by decide⟩

theorem witness_WaitFailsAtItsLastTick :
    (Inv inAckWait ∧ inAckWait.tmState = .awaitAck ∧ inAckWait.retryCount.toNat < inAckWait.maxRetries.toNat) ∧
    (Inv { inReplyWait rp with retryCount := 3 } ∧
      ({ inReplyWait rp with retryCount := 3 } : State).tmState = .awaitReply ∧
      ({ inReplyWait rp with retryCount := 3 } : State).maxRetries.toNat ≤
        ({ inReplyWait rp with retryCount := 3 } : State).retryCount.toNat) :=
  ⟨⟨inv_ack_wait, by decide, by decide⟩, inv_last_reply_wait, by decide, by decide⟩

theorem witness_WireTokensAreTheirBytes :
    decodeWire [0x10, 0x02] = .ok .wireStartDelim ∧ decodeWire [0x10, 0x03] = .ok .wireEndDelim ∧
    decodeWire [0x10, 0x10] = .ok .wireDleDle ∧ decodeWire [0x05] = .ok .wireEnq := by decide

theorem witness_TransactionInstructionsFrame :
    (Inv inAckWait ∧ arrivingBytes .wireStartDelim ≠ [] ∧ after .wireStartDelim inAckWait (·.inputs.length) = some 1) ∧
    (Inv (inReplyWait rp) ∧ arrivingBytes (.rx 0xC9) ≠ [] ∧ after (.rx 0xC9) (inReplyWait rp) (·.tmState) = some .matched) ∧
    (Inv inAckWait ∧ after .tick inAckWait (·.tmState) = some .awaitAck) :=
  ⟨⟨inv_ack_wait, by decide, by decide⟩, ⟨inv_match, by decide, by decide⟩, inv_ack_wait, by decide⟩

theorem witness_ResultCodesOfEachCommand :
    (∃ t, exec .destuff (loaded [0x10]) = .next t) ∧ ∃ t, exec .send inAckWait = .next t := ⟨⟨_, rfl⟩, ⟨_, rfl⟩⟩

theorem witness_VokOnlyAfterAMatchingVerify :
    (∃ t, exec .verifyCrc (loaded [0x00, 0x00]) = .next t) ∧ (∃ t, exec .cancel inAckWait = .next t) ∧
    ∃ t, exec .wireAck inAckWait = .next t := ⟨⟨_, rfl⟩, ⟨_, rfl⟩, ⟨_, rfl⟩⟩

theorem witness_ResetMeetsTheInvariant :
    params.Legal ∧ (Params.mk 6 6 0 0).Legal ∧ (Params.mk 32765 32765 0 0xFFFF).Legal ∧
    ∃ t, exec .reset inAckWait = .next t := ⟨by decide, by decide, by decide, ⟨_, rfl⟩⟩

theorem witness_EveryStepKeepsTheInvariant :
    Inv { inReplyWait rp with inputs := [.coded (.stimulus 0b0111001001#10)] } ∧
    ∃ t, step { inReplyWait rp with inputs := [.coded (.stimulus 0b0111001001#10)] } = .next t :=
  ⟨⟨by decide, by decide, by decide, by decide, by decide, by decide, by decide, by decide, by decide, by decide,
      by decide, by decide, by decide⟩, ⟨_, rfl⟩⟩

end Sys2Proof.Tests
end

section
/-! What a step makes of a presented stimulus: the request it is (R23, R81, R103), the state that has taken it, and the step
for each kind of request. -/

namespace Sys2Proof.Machine

theorem requestOf_coded_ok {e : Encoding} {i : Instr} (h : decode e = .ok i) : requestOf (.coded e) = .run i := by
  simp only [requestOf, h]

theorem requestOf_coded_error {e : Encoding} {why : DecodeError} (h : decode e = .error why) :
    requestOf (.coded e) = .reject (.undecodable why) := by
  simp only [requestOf, h]

@[simp] theorem requestOf_memRead (a n : Nat) : requestOf (.memRead a n) = .read a n := rfl

theorem isCommandWrite_iff {a n : Nat} : isCommandWrite a n = true ↔ a = 0 ∧ n = 4 := by simp [isCommandWrite]

theorem requestOf_memWrite_other {a n : Nat} (v : Word) (h : ¬(a = 0 ∧ n = 4)) :
    requestOf (.memWrite a n v) = .write a n v :=
  if_neg (mt isCommandWrite_iff.mp h)

theorem fetch_of_inputs_nil {s : State} (h : s.inputs = []) : fetch s = .wait := by simp only [fetch, h]

theorem fetch_of_inputs_cons {s : State} {x : Stimulus} {rest : List Stimulus} (h : s.inputs = x :: rest) :
    fetch s = requestOf x := by
  simp only [fetch, h]

theorem takeInput_of_inputs_cons {s : State} {x : Stimulus} {rest : List Stimulus} (h : s.inputs = x :: rest) :
    takeInput s = { s with inputs := rest } := by
  simp only [takeInput, h, List.tail_cons]

theorem step_of_fetch_wait {s : State} (h : fetch s = .wait) : step s = .next s := by simp only [step, h]

section
variable {s : State} {x : Stimulus} {rest : List Stimulus} (hs : s.inputs = x :: rest)
include hs

theorem step_of_run {i : Instr} (h : requestOf x = .run i) : step s = exec i { s with inputs := rest } := by
  simp only [step, fetch_of_inputs_cons hs, h, takeInput_of_inputs_cons hs]

theorem step_of_read {a n : Nat} (h : requestOf x = .read a n) : step s = hostRead a n { s with inputs := rest } := by
  simp only [step, fetch_of_inputs_cons hs, h, takeInput_of_inputs_cons hs]

theorem step_of_write {a n : Nat} {v : Word} (h : requestOf x = .write a n v) :
    step s = hostWrite a n v { s with inputs := rest } := by
  simp only [step, fetch_of_inputs_cons hs, h, takeInput_of_inputs_cons hs]

theorem step_of_reject {why : Refusal} (h : requestOf x = .reject why) : step s = .refused why := by
  simp only [step, fetch_of_inputs_cons hs, h]

end

/-- Settles O6: each kind of stimulus has its request, and each request its step. -/
theorem stepRunsTheDecodedInstruction : Obligations.StepRunsTheDecodedInstruction := by
  refine ⟨fun s e rest hs => ⟨fun i hd => ?instruction, fun why hd => ?undecodable⟩, fun s a n rest hs => ?hostRead,
    fun s a n v rest hs hcmd => ?hostWrite, fun s hs => ?wait⟩
  case instruction => exact step_of_run hs (requestOf_coded_ok hd)
  case undecodable => exact step_of_reject hs (requestOf_coded_error hd)
  case hostRead => exact step_of_read hs (requestOf_memRead a n)
  case hostWrite => exact step_of_write hs (requestOf_memWrite_other v hcmd)
  case wait => exact step_of_fetch_wait (fetch_of_inputs_nil hs)

end Sys2Proof.Machine
end


section
/-! How a codec command ends (R121, R124, R152, R153, R171, R178), said once for the ten of them, and the lengths of what they
store (R172, R176). -/

namespace Sys2Proof.Machine

/-- R172: the length of a frame against that of its interior. -/
theorem length_frameOf_le (k : ChkKind) (interior : List Byte) : (frameOf k interior).length ≤ 2 * interior.length + 6 := by
  have := length_stuff_le interior
  have := checkLen_le k
  rw [length_frameOf]; omega

/-- R171: what ENCODE makes of a body that is not too long. -/
theorem encodeFrame_eq_some {m : Nat} {src dst : Byte} {body f : List Byte} {k : ChkKind} :
    encodeFrame m src dst body k = some f ↔ body.length + 2 ≤ m ∧ f = frameOf k (dst :: src :: body) := by
  have hl : ([dst, src] ++ body).length = body.length + 2 := rfl
  by_cases h : m < body.length + 2
  · simp [encodeFrame, h, Nat.not_le_of_lt h]
  · simp only [encodeFrame, hl, if_neg h, Nat.le_of_not_lt h, true_and, Option.some.injEq, eq_comm (b := f)]; rfl

/-- R175: before the end delimiter is found a decode is incomplete or malformed; from there on the check bytes decide. -/
theorem decodeFrame_cases (m : Nat) (k : ChkKind) (b : List Byte) :
    (b.length ≤ 1 ∧ decodeFrame m k b = .incomplete) ∨ (∃ used, decodeFrame m k b = .malformed used) ∨
    ∃ ys, b = dle :: stx :: ys ∧
      ((scan m ys 2 [] = .incomplete ∧ decodeFrame m k b = .incomplete) ∨
        ∃ i interior rest, scan m ys 2 [] = .complete i interior rest ∧
          decodeFrame m k b = checkFrame k i interior rest) := by
  match b with
  | [] => exact .inl ⟨by simp, rfl⟩
  | [b] =>
    by_cases hb : b = dle
    · exact .inl ⟨by simp, if_pos hb⟩
    · exact .inr (.inl ⟨1, if_neg hb⟩)
  | b :: c :: ys =>
    by_cases hb : b = dle
    · by_cases hc : c = stx
      · subst hb hc
        cases hs : scan m ys 2 [] with
        | incomplete => exact .inr (.inr ⟨ys, rfl, .inl ⟨hs, by simp [decodeFrame, hs]⟩⟩)
        | malformed used => exact .inr (.inl ⟨used, by simp [decodeFrame, hs]⟩)
        | complete i interior rest => exact .inr (.inr ⟨ys, rfl, .inr ⟨i, interior, rest, hs, by simp [decodeFrame, hs]⟩⟩)
      · exact .inr (.inl ⟨2, by simp [decodeFrame, hb, hc]⟩)
    · exact .inr (.inl ⟨1, by simp [decodeFrame, hb]⟩)

theorem checkFrame_ok {k : ChkKind} {i used : Nat} {interior rest body : List Byte} {dst src : Byte}
    (h : checkFrame k i interior rest = .ok used dst src body) : interior = dst :: src :: body := by
  simp only [checkFrame] at h
  split at h
  · cases h
  · split at h
    · split at h <;> cases h
      rfl
    · cases h

theorem checkFrame_incomplete {k : ChkKind} {i : Nat} {interior rest : List Byte}
    (h : checkFrame k i interior rest = .incomplete) : rest.length < checkLen k := by
  simp only [checkFrame] at h
  split at h
  · assumption
  · split at h
    · split at h <;> cases h
    · cases h

/-- R175: a decoded body, its two address bytes with it, is within MAX_INTERIOR. -/
theorem decodeFrame_ok_length {m used : Nat} {k : ChkKind} {b body : List Byte} {dst src : Byte}
    (h : decodeFrame m k b = .ok used dst src body) : body.length + 2 ≤ m := by
  rcases decodeFrame_cases m k b with ⟨-, hd⟩ | ⟨_, hd⟩ | ⟨ys, -, ⟨-, hd⟩ | ⟨i, interior, rest, hs, hd⟩⟩
  case' inr.inr.inr =>
    have hlen := scan_spec m ys 2 [] (Nat.zero_le _)
    rw [hs] at hlen
    obtain ⟨-, -, -, hm, -⟩ := hlen
    rwa [checkFrame_ok (hd.symm.trans h)] at hm
  all_goals cases hd.symm.trans h

/-- R42, R176: a frame of which more bytes are awaited is shorter than the longest frame. -/
theorem decodeFrame_incomplete_length {m : Nat} {k : ChkKind} {b : List Byte}
    (h : decodeFrame m k b = .incomplete) : b.length < 2 * m + 6 := by
  rcases decodeFrame_cases m k b with ⟨hb, -⟩ | ⟨_, hd⟩ | ⟨ys, rfl, ⟨hs, -⟩ | ⟨i, interior, rest, hs, hd⟩⟩
  · omega
  · cases hd.symm.trans h
  · have hlen := scan_spec m ys 2 [] (Nat.zero_le _)
    simp only [hs, List.length_nil] at hlen
    simp; omega
  · have hlen := scan_spec m ys 2 [] (Nat.zero_le _)
    simp only [hs, List.length_nil] at hlen
    have hrest := checkFrame_incomplete (hd.symm.trans h)
    have := checkLen_le k
    simp; omega

/-- The next states of a codec command. Beyond RES it writes its output and OUT_LEN, with DEC_INFO or without; or it fails and
clears OUT_LEN, with DEC_INFO or without; VERIFY writes RES alone. -/
inductive CodecEnd (i : Instr) (s : State) : State → Prop where
  | wrote : CodecEnd i s (finish (setOut (storedBytes i s) s))
  | decoded (dst src : Byte) (used : Nat) :
    CodecEnd i s (finish (setDecInfo dst src used (setOut (storedBytes i s) s)))
  | failed (e : ResCode) : CodecEnd i s (raise e (clearOut s))
  | undecoded (e : ResCode) (used : Nat) : CodecEnd i s (raise e (setDecInfo 0 0 used (clearOut s)))
  | verified (code : ResCode) (vok : Bool) (hv : i = .verifyBcc ∨ i = .verifyCrc) : CodecEnd i s (setRes code vok s)

/-- R153: VERIFY is short, or it compares the check bytes. -/
theorem checkVerify_next {k : ChkKind} {s t : State} (h : checkVerify k s = .next t) :
    (s.inLen.toNat < checkLen k ∧ t = raise .short s) ∨
    (checkLen k ≤ s.inLen.toNat ∧ ∃ xs, inputBytes s = some xs ∧ t = verifyInput k s xs) := by
  by_cases hl : s.inLen.toNat < checkLen k
  · rw [checkVerify, if_pos hl] at h; cases h; exact .inl ⟨hl, rfl⟩
  · rw [checkVerify, if_neg hl] at h
    obtain ⟨xs, hx, rfl⟩ := withInput_next.mp h
    exact .inr ⟨Nat.le_of_not_lt hl, xs, hx, rfl⟩

section
variable {i : Instr} {k : ChkKind} {s t : State}

theorem withInput_codecEnd {output : List Byte → List Byte}
    (hi : ∀ xs, inputBytes s = some xs → storedBytes i s = output xs)
    (h : withInput s (fun xs => finish (setOut (output xs) s)) = .next t) : CodecEnd i s t := by
  obtain ⟨xs, hx, rfl⟩ := withInput_next.mp h
  rw [← hi xs hx]
  exact .wrote

theorem execDestuff_codecEnd (h : execDestuff s = .next t) : CodecEnd .destuff s t := by
  obtain ⟨ys, hx, rfl⟩ := withInput_next.mp h
  cases hd : destuff ys with
  | none => simp only [destuffInput, hd]; exact .failed _
  | some out =>
    have hs : storedBytes .destuff s = out := by simp [storedBytes, hx, hd]
    simp only [destuffInput, hd, ← hs]; exact .wrote

theorem checkVerify_codecEnd (hi : i = .verifyBcc ∨ i = .verifyCrc) (h : checkVerify k s = .next t) :
    CodecEnd i s t := by
  rcases checkVerify_next h with ⟨-, rfl⟩ | ⟨-, xs, -, rfl⟩ <;> exact .verified _ _ hi

theorem encodeCommand_codecEnd
    (hi : ∀ body f, inputBytes s = some body → encodeFrame s.params.maxInterior s.addrSrc s.addrDst body k = some f →
      storedBytes i s = f)
    (h : encodeCommand k s = .next t) : CodecEnd i s t := by
  by_cases hl : s.params.maxInterior < s.inLen.toNat + 2
  · rw [encodeCommand, if_pos hl] at h; cases h; exact .failed _
  · rw [encodeCommand, if_neg hl] at h
    obtain ⟨body, hx, rfl⟩ := withInput_next.mp h
    cases hf : encodeFrame s.params.maxInterior s.addrSrc s.addrDst body k with
    | none => simp only [encodeInput, hf]; exact .failed _
    | some f => simp only [encodeInput, hf, ← hi body f hx hf]; exact .wrote

theorem decodeCommandFrame_codecEnd
    (hi : ∀ buf used dst src body, inputBytes s = some buf →
      decodeFrame s.params.maxInterior k buf = .ok used dst src body → storedBytes i s = body)
    (h : decodeCommandFrame k s = .next t) : CodecEnd i s t := by
  obtain ⟨buf, hx, rfl⟩ := withInput_next.mp h
  cases hd : decodeFrame s.params.maxInterior k buf with
  | ok used dst src body =>
    simp only [decodeInput, hd, ← hi buf used dst src body hx hd]; exact .decoded _ _ _
  | incomplete => simp only [decodeInput, hd]; exact .undecoded _ _
  | malformed used => simp only [decodeInput, hd]; exact .undecoded _ _
  | checksum used => simp only [decodeInput, hd]; exact .undecoded _ _

end

/-- A codec command that answers a next state ends in one of these ways. -/
theorem codec_codecEnd {i : Instr} {s t : State} (hc : isCodec i = true) (h : exec i s = .next t) : CodecEnd i s t := by
  cases i <;> simp only [isCodec, Bool.false_eq_true] at hc
  case stuff => exact withInput_codecEnd (fun xs hx => by simp [storedBytes, hx]) h
  case destuff => exact execDestuff_codecEnd h
  case chkBcc => exact withInput_codecEnd (fun xs hx => by simp [storedBytes, hx]) h
  case chkCrc => exact withInput_codecEnd (fun xs hx => by simp [storedBytes, hx]) h
  case verifyBcc => exact checkVerify_codecEnd (.inl rfl) h
  case verifyCrc => exact checkVerify_codecEnd (.inr rfl) h
  case encodeBcc => exact encodeCommand_codecEnd (fun body f hx hf => by simp [storedBytes, hx, hf]) h
  case encodeCrc => exact encodeCommand_codecEnd (fun body f hx hf => by simp [storedBytes, hx, hf]) h
  case decodeBcc => exact decodeCommandFrame_codecEnd (fun _ _ _ _ _ hx hd => by simp [storedBytes, hx, hd]) h
  case decodeCrc => exact decodeCommandFrame_codecEnd (fun _ _ _ _ _ hx hd => by simp [storedBytes, hx, hd]) h

/-- The step of an instruction with which bytes arrive receives the first and presents the others (R10, R73; log 7). -/
theorem exec_of_arrivingBytes {i : Instr} {b : Byte} {bs : List Byte} (h : arrivingBytes i = b :: bs) (s : State) :
    exec i s = .next (present bs (receive b s)) := by
  cases i <;> simp only [arrivingBytes, List.cons.injEq, reduceCtorEq] at h
  all_goals obtain ⟨rfl, rfl⟩ := h; rfl

/-- The kinds of instructions: codec commands, the other commands, and the port events with the wire tokens. -/
theorem instr_kinds (i : Instr) :
    isCodec i = true ∨ i = .send ∨ i = .cancel ∨ (∃ code, i = .reserved code) ∨ i = .tick ∨ i = .reset ∨
      ∃ b bs, arrivingBytes i = b :: bs := by
  cases i <;> simp [isCodec, arrivingBytes]

end Sys2Proof.Machine
end


section
/-! The invariant of R47 under each operation on the state, and under every step. -/

namespace Sys2Proof.Machine

/-! ### The operations that the commands share -/

theorem inv_takeInput {s : State} (h : Inv s) : Inv (takeInput s) := { h with }

theorem inv_present {s : State} (bs : List Byte) (h : Inv s) : Inv (present bs s) := { h with }

theorem inv_setRes {s : State} (code : ResCode) (vok : Bool) (h : Inv s) : Inv (setRes code vok s) := { h with }

theorem inv_setDecInfo {s : State} (dst src : Byte) (used : Nat) (h : Inv s) : Inv (setDecInfo dst src used s) :=
  { h with }

theorem inv_clearOut {s : State} (h : Inv s) : Inv (clearOut s) := { h with outLen := Nat.zero_le _ }

/-- A store to buffer addresses (R62). -/
theorem inv_store {s : State} {a : Nat} {bs : List Byte} (h : Inv s)
    (hp : ∀ x, a ≤ x → x < a + bs.length → isBufferAddress s.params x = true) :
    Inv { s with mem := writeBytes s.mem a bs } :=
  { h with
    memWf := writeBytes_wf bs a h.memWf
    memPlaces := fun c hc => (mem_writeBytes bs hc).elim (h.memPlaces c) fun ⟨hlo, hhi⟩ => hp c.1 hlo hhi }

/-- R31: an output no longer than OUT_BUF. -/
theorem inv_setOut {s : State} {bs : List Byte} (h : Inv s) (hb : bs.length ≤ outCap s.params) : Inv (setOut bs s) := by
  have hs : Inv { s with mem := writeBytes s.mem outBufBase bs } := inv_store h fun x hlo hhi => by
    rw [isBufferAddress_iff h.legal]
    simp only [outBufBase, outCap] at hlo hhi hb
    omega
  have hl : (BitVec.ofNat 16 bs.length).toNat ≤ outCap s.params := by
    rw [BitVec.toNat_ofNat]
    exact (Nat.mod_le _ _).trans hb
  exact { hs with outLen := hl }

/-! ### Codec commands -/

theorem inputBytes_length_le {s : State} {xs : List Byte} (h : Inv s) (hx : inputBytes s = some xs) :
    xs.length ≤ s.params.bufSize :=
  (inputBytes_length hx).trans_le h.inLen

theorem length_getD_destuff_le (ys : List Byte) : ((destuff ys).getD []).length ≤ ys.length := by
  cases hd : destuff ys with
  | none => simp
  | some out => exact length_destuff_le ys out hd

theorem length_getD_encodeFrame_le (m : Nat) (src dst : Byte) (body : List Byte) (k : ChkKind) :
    ((encodeFrame m src dst body k).getD []).length ≤ 2 * m + 6 := by
  cases hf : encodeFrame m src dst body k with
  | none => simp
  | some f =>
    obtain ⟨hm, rfl⟩ := encodeFrame_eq_some.mp hf
    have := length_frameOf_le k (dst :: src :: body)
    simp only [List.length_cons] at this
    simp only [Option.getD_some]; omega

/-- R5: OUT_BUF holds the output of every codec command. -/
theorem length_storedBytes_le {s : State} (i : Instr) (h : Inv s) : (storedBytes i s).length ≤ outCap s.params := by
  obtain ⟨-, hm, -⟩ := h.legal
  cases hx : inputBytes s with
  | none => simp [storedBytes, hx]
  | some xs =>
    have hlen := inputBytes_length_le h hx
    have hchk (k : ChkKind) : (chk k xs).length ≤ outCap s.params := by
      have := checkLen_le k
      rw [length_chk, outCap]; omega
    have hencoded (k : ChkKind) :
        ((encodeFrame s.params.maxInterior s.addrSrc s.addrDst xs k).getD []).length ≤ outCap s.params :=
      (length_getD_encodeFrame_le ..).trans (by rw [outCap]; omega)
    have hdecoded {k : ChkKind} {used : Nat} {dst src : Byte} {body : List Byte}
        (hd : decodeFrame s.params.maxInterior k xs = .ok used dst src body) : body.length ≤ outCap s.params := by
      have := decodeFrame_ok_length hd
      rw [outCap]; omega
    cases i
    case stuff =>
      have := length_stuff_le xs
      simp only [storedBytes, hx, outCap]; omega
    case destuff =>
      have := length_getD_destuff_le xs
      simp only [storedBytes, hx, outCap]; omega
    case chkBcc => simpa only [storedBytes, hx] using hchk .bcc
    case chkCrc => simpa only [storedBytes, hx] using hchk .crc
    case encodeBcc => simpa only [storedBytes, hx] using hencoded .bcc
    case encodeCrc => simpa only [storedBytes, hx] using hencoded .crc
    case decodeBcc =>
      simp only [storedBytes, hx]
      split
      · next hd => exact hdecoded hd
      all_goals exact Nat.zero_le _
    case decodeCrc =>
      simp only [storedBytes, hx]
      split
      · next hd => exact hdecoded hd
      all_goals exact Nat.zero_le _
    all_goals simp [storedBytes, hx]

theorem inv_codecEnd {i : Instr} {s t : State} (h : Inv s) (he : CodecEnd i s t) : Inv t := by
  have hout : Inv (setOut (storedBytes i s) s) := inv_setOut h (length_storedBytes_le i h)
  cases he with
  | wrote => exact inv_setRes _ _ hout
  | decoded => exact inv_setRes _ _ (inv_setDecInfo _ _ _ hout)
  | failed => exact inv_setRes _ _ (inv_clearOut h)
  | undecoded => exact inv_setRes _ _ (inv_setDecInfo _ _ _ (inv_clearOut h))
  | verified => exact inv_setRes _ _ h

/-! ### Host accesses -/

theorem inv_hostRead {a n : Nat} {s t : State} (h : Inv s) (ht : hostRead a n s = .next t) : Inv t := by
  obtain ⟨-, rfl⟩ := hostRead_next.mp ht
  exact { h with }

/-- R26: outside a wait the configuration is free. -/
theorem inv_setConfig {s : State} (kind : ChkKind) (retries : BitVec 8) (ackTo replyTo : Word) (h : Inv s)
    (hw : awaiting s = false) :
    Inv { s with chkKind := kind, maxRetries := retries, ackTo := ackTo, replyTo := replyTo } :=
  { h with
    waiting := fun hw' => absurd (hw.symm.trans hw') Bool.false_ne_true
    replyWait := fun hs => absurd (hw.symm.trans (awaiting_iff.mpr (.inr hs))) Bool.false_ne_true }

/-- R26: a configuration write in a wait is dropped. -/
theorem writeConfig_awaiting {s : State} (t : State) (h : awaiting s = true) : writeConfig s t = s := if_pos h

theorem writeConfig_resting {s : State} (t : State) (h : awaiting s = false) : writeConfig s t = t :=
  if_neg (by simp [h])

theorem inv_writeConfig {s t : State} (h : Inv s) (ht : awaiting s = false → Inv t) : Inv (writeConfig s t) := by
  cases hw : awaiting s with
  | true => rwa [writeConfig_awaiting t hw]
  | false => rw [writeConfig_resting t hw]; exact ht hw

/-- R30: IN_LEN never exceeds BUF_SIZE. -/
theorem inv_setInLen {s : State} {n : Half} (h : Inv s) (hn : n.toNat ≤ s.params.bufSize) : Inv { s with inLen := n } :=
  { h with inLen := hn }

theorem inv_writeRegister {s : State} (a : Nat) (v : Word) (h : Inv s) : Inv (writeRegister a v s) := by
  unfold writeRegister
  split
  · exact inv_writeConfig h (inv_setConfig _ _ _ _ h)
  · exact inv_writeConfig h (inv_setConfig _ _ _ _ h)
  · exact inv_writeConfig h (inv_setConfig _ _ _ _ h)
  · exact { h with }
  · refine inv_setInLen h ?_
    rw [BitVec.toNat_ofNat]
    exact (Nat.mod_le _ _).trans (Nat.min_le_right _ _)
  · exact h

/-- R64: an access to IN_BUF that is no error lies in IN_BUF, to its last byte. -/
theorem placeOf_accessed_inBuf {p : Params} {a n : Nat} {v : Word} (ha : placeOf p a = .inBuf)
    (he : accessErrorOf p a n = none) :
    ∀ x, a ≤ x → x < a + (writtenBytes n v).length → placeOf p x = .inBuf := by
  intro x hlo hhi
  rcases (accessErrorOf_of_buffer (by simp [ha]) (by simp [ha])).mp he with rfl | ⟨rfl, -, hlast⟩
  · have hx : x = a := by simp [writtenBytes] at hhi; omega
    rwa [hx]
  · rw [ha] at hlast
    rw [placeOf_inBuf] at ha hlast ⊢
    simp [writtenBytes, wordBytes] at hhi
    omega

theorem inv_hostWrite {a n : Nat} {v : Word} {s t : State} (h : Inv s) (ht : hostWrite a n v s = .next t) : Inv t := by
  obtain ⟨he, rfl⟩ := hostWrite_next.mp ht
  unfold writePlace
  split
  · exact inv_writeRegister a v h
  · next ha => exact inv_store h fun x hlo hhi => by simp [isBufferAddress, placeOf_accessed_inBuf ha he x hlo hhi]
  · exact h
  · exact h
  · exact h

/-! ### The transaction -/

theorem cfgOk_iff {s : State} :
    cfgOk s = true ↔ 1 ≤ s.maxRetries.toNat ∧ 1 ≤ s.ackTo.toNat ∧ s.ackTo.toNat < s.replyTo.toNat := by
  simp [cfgOk, and_assoc]

/-- R35: FAIL is set in FAILED only. -/
theorem fail_eq_none {s : State} (h : Inv s) (hs : s.tmState ≠ .failed) : s.fail = .none := by
  by_contra hf
  exact hs (h.failing.mp hf)

theorem tmState_ne_failed_of_awaiting {s : State} (hw : awaiting s = true) : s.tmState ≠ .failed := by
  rcases awaiting_iff.mp hw with hs | hs <;> simp [hs]

/-- Every byte of `rx` may be dropped. -/
theorem inv_clearRx {s : State} (h : Inv s) : Inv { s with rx := [] } :=
  { h with
    resting := fun hw => ⟨(h.resting hw).1, rfl⟩
    rxBound := Nat.zero_le _
    ackWait := fun _ => rfl
    replyWait := fun _ => rfl }

/-- Entering a rest, or staying in it. -/
theorem inv_rest {s : State} {st : TmState} {reason : FailReason} (h : Inv s)
    (hst : st = .idle ∨ st = .failed) (hf : reason ≠ .none ↔ st = .failed) :
    Inv { s with rx := [], tmState := st, timer := 0, fail := reason } := by
  have hw : awaiting { s with rx := [], tmState := st, timer := 0, fail := reason } = false := by
    rcases hst with rfl | rfl <;> rfl
  exact { inv_clearRx h with
    waiting := fun hw' => absurd (hw.symm.trans hw') Bool.false_ne_true
    resting := fun _ => ⟨rfl, rfl⟩
    failing := hf
    matched := fun hs => by rcases hst with rfl | rfl <;> cases hs
    ackWait := fun _ => rfl
    replyWait := fun _ => rfl }

/-- Entering a wait, with a timer running and an attempt counted. -/
theorem inv_wait {s : State} {st : TmState} {timer : Word} {count : BitVec 8} (h : Inv s) (hf : s.fail = .none)
    (hcfg : cfgOk s = true) (hst : st = .awaitAck ∨ st = .awaitReply) (ht : 1 ≤ timer.toNat)
    (hc : 1 ≤ count.toNat ∧ count.toNat ≤ s.maxRetries.toNat) :
    Inv { s with rx := [], retryCount := count, tmState := st, timer := timer } := by
  have hw : awaiting { s with rx := [], retryCount := count, tmState := st, timer := timer } = true := by
    rcases hst with rfl | rfl <;> rfl
  exact { inv_clearRx h with
    waiting := fun _ => ⟨ht, hc.1, hc.2, hcfg⟩
    resting := fun hw' => absurd (hw'.symm.trans hw) Bool.false_ne_true
    failing := by rcases hst with rfl | rfl <;> simp [hf]
    matched := fun hs => by rcases hst with rfl | rfl <;> cases hs
    ackWait := fun _ => rfl
    replyWait := fun _ => rfl }

/-- R210. -/
theorem inv_failAttempt {s : State} (stage : Stage) (h : Inv s) (hw : awaiting s = true) : Inv (failAttempt stage s) := by
  obtain ⟨-, -, -, hcfg⟩ := h.waiting hw
  by_cases hlt : s.retryCount < s.maxRetries
  · have hnext : (s.retryCount + 1).toNat = s.retryCount.toNat + 1 := by bv_omega
    have hack := (cfgOk_iff.mp hcfg).2.1
    have hretry : Inv { s with rx := [], retryCount := s.retryCount + 1, tmState := .awaitAck, timer := s.ackTo } :=
      inv_wait h (fail_eq_none h (tmState_ne_failed_of_awaiting hw)) hcfg (.inl rfl) hack (by bv_omega)
    rw [failAttempt_retry hlt]
    exact { hretry with }
  · rw [failAttempt_exhausted hlt]
    exact inv_rest h (.inr rfl) (by cases stage <;> simp [Stage.reason])

/-- R215. -/
theorem inv_tickState {s : State} (h : Inv s) : Inv (tickState s) := by
  rcases tickState_cases s with ⟨-, he⟩ | ⟨hw, h0, he⟩ | ⟨hw, -, he⟩ <;> rw [he]
  · exact h
  · obtain ⟨-, hcount⟩ := h.waiting hw
    exact { h with
      waiting := fun _ => ⟨by bv_omega, hcount⟩
      resting := fun hw' => absurd (hw'.symm.trans hw) Bool.false_ne_true }
  · exact inv_failAttempt _ h hw

/-- R219, in AWAIT_ACK, where the byte received is alone in `rx`. -/
theorem inv_ackStep {s : State} (b : Byte) (h : Inv s) (hs : s.tmState = .awaitAck) :
    Inv (ackStep b [] { s with rx := [b] }) := by
  have hw := awaiting_iff.mpr (.inl hs)
  rcases ackStep_cases b [] { s with rx := [b] } with ⟨-, he⟩ | ⟨-, he⟩ <;> rw [he]
  · obtain ⟨-, hlo, hhi, hcfg⟩ := h.waiting hw
    obtain ⟨-, hack, hreply⟩ := cfgOk_iff.mp hcfg
    have hwait : Inv { s with rx := [], tmState := .awaitReply, timer := s.replyTo } :=
      inv_wait h (fail_eq_none h (tmState_ne_failed_of_awaiting hw)) hcfg (.inr rfl) (by omega) ⟨hlo, hhi⟩
    exact hwait
  · rw [failAttempt_ignores .ack s [b] s.timer]
    exact inv_failAttempt _ h hw

/-- R212: a decoded body fits REPLY_BUF. -/
theorem inv_matchReply {s : State} {dst src : Byte} {body : List Byte} (h : Inv s) (hw : awaiting s = true)
    (hb : body.length + 2 ≤ s.params.maxInterior) : Inv (matchReply dst src body s) := by
  have hs : Inv { s with mem := writeBytes s.mem replyBufBase body } := inv_store h fun x hlo hhi => by
    rw [isBufferAddress_iff h.legal]
    simp only [replyBufBase] at hlo hhi
    omega
  have hl : (BitVec.ofNat 16 body.length).toNat + 2 ≤ s.params.maxInterior := by
    have := Nat.mod_le body.length (2 ^ 16)
    rw [BitVec.toNat_ofNat]; omega
  exact { hs with
    waiting := fun hw' => absurd hw' Bool.false_ne_true
    resting := fun _ => ⟨rfl, rfl⟩
    failing := by simp [fail_eq_none h (tmState_ne_failed_of_awaiting hw)]
    matched := fun _ => hl
    rxBound := Nat.zero_le _
    ackWait := fun _ => rfl
    replyWait := fun hs => TmState.noConfusion hs }

/-- A partial frame in `rx` while a reply is awaited (R42). -/
theorem inv_of_partialFrame {s : State} (h : Inv { s with rx := [] }) (hs : s.tmState = .awaitReply)
    (hd : decodeFrame s.params.maxInterior s.chkKind s.rx = .incomplete) : Inv s :=
  { h with
    resting := fun hw => absurd (hw.symm.trans (awaiting_iff.mpr (.inr hs))) Bool.false_ne_true
    rxBound := (decodeFrame_incomplete_length hd).le
    ackWait := fun hs' => absurd (hs.symm.trans hs') (by decide)
    replyWait := fun _ => hd }

/-- R218: between two rounds of the loop only the frame that `rx` begins is unsettled, and only while a reply is awaited. -/
def BetweenRounds (s : State) : Prop := Inv { s with rx := [] } ∧ (s.rx ≠ [] → s.tmState = .awaitReply)

/-- R226: a reply step ends between rounds, one byte further at least, or in a state that meets the invariant. -/
theorem betweenRounds_replyStep {s : State} {b : Byte} {rest : List Byte} (h : BetweenRounds s) (hr : s.rx = b :: rest) :
    (∃ t, replyStep b rest s = .goOn t ∧ BetweenRounds t ∧ t.rx.length ≤ rest.length) ∨
    ∃ t, replyStep b rest s = .stop t ∧ Inv t := by
  obtain ⟨hinv, hs⟩ := h
  replace hs := hs (by simp [hr])
  have hw := awaiting_iff.mpr (.inr hs)
  rcases replyStep_cases b rest s with
    ⟨-, he⟩ | ⟨-, ⟨hd, he⟩ | ⟨-, he⟩ | ⟨used, dst, src, body, hd, ⟨-, he⟩ | ⟨-, he⟩⟩⟩
  case inl => exact .inl ⟨_, he, ⟨hinv, fun _ => hs⟩, le_rfl⟩
  case inr.inl => exact .inr ⟨_, he, inv_of_partialFrame hinv hs hd⟩
  case inr.inr.inl =>
    refine .inr ⟨_, he, ?_⟩
    rw [← failAttempt_ignores .reply s [] s.timer]
    exact inv_failAttempt _ hinv hw
  case inr.inr.inr.inl =>
    have hacked : Inv { s with rx := [], txs := s.txs ++ [ack] } := { hinv with }
    have hmatch := inv_matchReply (dst := dst) (src := src) hacked hw (decodeFrame_ok_length hd)
    exact .inr ⟨_, he, hmatch⟩
  case inr.inr.inr.inr =>
    have hstale : Inv { s with rx := [], txs := s.txs ++ [ack], staleSeen := true } := { hinv with }
    have := decodeFrame_ok_used hd
    exact .inl ⟨_, he, ⟨hstale, fun _ => hs⟩, by simp [hr]; omega⟩

/-- R218. -/
theorem inv_processRx : ∀ (n : Nat) (s : State), s.rx.length ≤ n → BetweenRounds s → Inv (processRx n s)
  | n, s, hn, h => by
    cases hr : s.rx with
    | nil =>
      rw [processRx_rest (.inl hr)]
      have hs : { s with rx := [] } = s := by rw [← hr]
      exact hs ▸ h.1
    | cons b rest =>
      have hs := h.2 (by simp [hr])
      cases n with
      | zero => simp [hr] at hn
      | succ n =>
        rw [hr, List.length_cons] at hn
        rcases betweenRounds_replyStep h hr with ⟨t, he, ht, hlen⟩ | ⟨t, he, ht⟩
        · rw [processRx_continue hr hs he]
          exact inv_processRx n t (by omega) ht
        · rwa [processRx_stop hr hs he]

/-- R218, R232. -/
theorem inv_receive {s : State} (b : Byte) (h : Inv s) : Inv (receive b s) := by
  cases hw : awaiting s with
  | false => rwa [receive_resting b hw]
  | true =>
    rcases awaiting_iff.mp hw with hs | hs
    · rw [receive_awaitAck b hs (h.ackWait hs)]
      exact inv_ackStep b h hs
    · rw [receive_awaiting b hw]
      exact inv_processRx _ _ (by simp) ⟨(inv_clearRx h :), fun _ => hs⟩

/-- R222: an accepted SEND leaves a rest, whichever it was, for AWAIT_ACK. -/
theorem inv_startTransaction {s : State} {body : List Byte} (h : Inv s) (hcfg : cfgOk s = true)
    (hb : body.length + 2 ≤ s.params.maxInterior) : Inv (startTransaction body s) := by
  have hrest : Inv { s with rx := [], tmState := .idle, timer := 0, fail := .none } := inv_rest h (.inl rfl) (by simp)
  obtain ⟨hretries, hack, -⟩ := cfgOk_iff.mp hcfg
  have hwait := inv_wait (count := 1) hrest rfl hcfg (.inl rfl) hack ⟨le_rfl, hretries⟩
  have hframe : (frameOf s.chkKind (s.addrDst :: s.addrSrc :: body)).length ≤ 2 * s.params.maxInterior + 6 := by
    refine (length_frameOf_le _ _).trans ?_
    simp only [List.length_cons]; omega
  exact inv_setRes _ _ { hwait with
    matched := fun hs => TmState.noConfusion hs
    txFrame := hframe }

/-! ### Steps -/

theorem inv_send {s t : State} (h : Inv s) (ht : exec .send s = .next t) : Inv t := by
  rcases send_next ht with ⟨e, -, rfl⟩ | ⟨haccepted, body, hbody, rfl⟩
  · exact inv_setRes _ _ h
  · obtain ⟨-, hcfg, h4, hlen⟩ := sendRefusal_eq_none.mp haccepted
    exact inv_startTransaction h hcfg (by rwa [sendBody_length hbody h4])

/-- R290, R47: the reset state. -/
theorem inv_resetWith {p : Params} (hp : p.Legal) : Inv (State.resetWith p) where
  legal := hp
  memWf := resetWith_mem_wf p
  memPlaces := by simp [State.resetWith]
  inLen := Nat.zero_le _
  outLen := Nat.zero_le _
  waiting := by simp [State.resetWith, awaiting]
  resting := fun _ => ⟨rfl, rfl⟩
  failing := by simp [State.resetWith]
  matched := by simp [State.resetWith]
  rxBound := Nat.zero_le _
  ackWait := fun _ => rfl
  replyWait := fun _ => rfl
  txFrame := Nat.zero_le _

theorem inv_exec {i : Instr} {s t : State} (h : Inv s) (ht : exec i s = .next t) : Inv t := by
  rcases instr_kinds i with hc | rfl | rfl | ⟨code, rfl⟩ | rfl | rfl | ⟨b, bs, hb⟩
  case inl => exact inv_codecEnd h (codec_codecEnd hc ht)
  case inr.inl => exact inv_send h ht
  case inr.inr.inl =>
    cases ht
    exact inv_setRes _ _ (inv_rest h (.inl rfl) (by simp))
  case inr.inr.inr.inl => cases ht; exact inv_setRes _ _ h
  case inr.inr.inr.inr.inl => cases ht; exact inv_tickState h
  case inr.inr.inr.inr.inr.inl => cases ht; exact { inv_resetWith h.legal with }
  case inr.inr.inr.inr.inr.inr =>
    rw [exec_of_arrivingBytes hb] at ht
    cases ht
    exact inv_present bs (inv_receive b h)

/-- Settles O60: a step waits, runs an instruction or completes a host access, and each keeps the invariant. -/
theorem everyStepKeepsTheInvariant : Obligations.EveryStepKeepsTheInvariant := by
  intro s t h hstep
  rcases step_cases hstep with ⟨-, rfl⟩ | ⟨i, -, hrun⟩ | ⟨a, n, -, hread⟩ | ⟨a, n, v, -, hwrite⟩
  · exact h
  · exact inv_exec (inv_takeInput h) hrun
  · exact inv_hostRead (inv_takeInput h) hread
  · exact inv_hostWrite (inv_takeInput h) hwrite

end Sys2Proof.Machine
end


section
/-! The registers a host writes, the write to CMD, RES.VOK and the reset state (R23, R24, R26, R29, R30, R290). -/

namespace Sys2Proof.Machine

/-! ### The write to CMD -/

/-- R103: a command's stimulus word gives its code. -/
theorem decode_commandWord (code : Byte) : decode (.stimulus (commandWord code)) = .ok (decodeCommand code) := by
  have hlow : (commandWord code).extractLsb' 0 8 = code := BitVec.extractLsb'_append_eq_right
  simp only [decode, decodeStimulus, Laws.StimulusFormat.commandWord_top, hlow]
  rfl

theorem requestOf_commandWrite (v : Word) :
    requestOf (.memWrite 0x000 4 v) = .run (decodeCommand (v.extractLsb' 0 8)) := rfl

/-- R63: an aligned 32-bit access to a register is no access error. -/
theorem accessErrorOf_aligned_register {p : Params} {a : Nat} (ha : a < 0x40) (h4 : a % 4 = 0) :
    accessErrorOf p a 4 = none :=
  (accessErrorOf_of_register (placeOf_register.mpr ha)).mpr ⟨rfl, h4⟩

theorem hostRead_register {a : Nat} (s : State) (ha : a < 0x40) (h4 : a % 4 = 0) :
    hostRead a 4 s = .next { s with lastRead := .word (registerWord s a) } := by
  have hd : readData s a 4 = .word (registerWord s a) := if_pos (placeOf_register.mpr ha)
  exact hostRead_next.mpr ⟨accessErrorOf_aligned_register ha h4, by rw [hd]⟩

theorem hostWrite_register {a : Nat} (v : Word) (s : State) (ha : a < 0x40) (h4 : a % 4 = 0) :
    hostWrite a 4 v s = .next (writeRegister a v s) := by
  refine hostWrite_next.mpr ⟨accessErrorOf_aligned_register ha h4, ?_⟩
  simp only [writePlace, placeOf_register.mpr ha]

/-- Settles O7: the write and the stimulus word are requests for the same instruction. -/
theorem writeToCmdExecutesItsCode : Obligations.WriteToCmdExecutesItsCode := by
  intro s v rest
  have hwrite := step_cons (s := s) (rest := rest) (requestOf_commandWrite v)
  have hword := step_cons (s := s) (rest := rest) (requestOf_coded_ok (decode_commandWord (v.extractLsb' 0 8)))
  exact ⟨hwrite, hwrite.trans hword.symm, hostRead_register s (by decide) (by decide)⟩

/-! ### Register writes -/

/-- Settles O14: each of the three registers is written through `writeConfig`. -/
theorem configurationWritesAreDroppedInAWait : Obligations.ConfigurationWritesAreDroppedInAWait := by
  intro s v
  rw [hostWrite_register v s (by decide) (by decide), hostWrite_register v s (by decide) (by decide),
    hostWrite_register v s (by decide) (by decide)]
  refine ⟨fun hs => ?wait, fun hack hreply => ?rest⟩
  case wait =>
    have hw := awaiting_iff.mpr hs
    simp only [writeRegister, writeConfig_awaiting _ hw, and_self]
  case rest =>
    have hw : awaiting s = false := by simp [awaiting, hack, hreply]
    simp only [writeRegister, writeConfig_resting _ hw, kindOfBit, and_self]

/-- R30: what IN_LEN is after a write of `v`; the smaller of two numbers, one below 2^16, loses nothing in 16 bits. -/
theorem toNat_writeInLen (v : Word) (n : Nat) :
    (BitVec.ofNat 16 (min (v.extractLsb' 0 16).toNat n)).toNat = min (v.toNat % 65536) n := by
  have hv : (v.extractLsb' 0 16).toNat = v.toNat % 65536 := by simp
  rw [BitVec.toNat_ofNat, hv]
  omega

/-- Settles O15: the two register writes, and the input read as the bytes of IN_BUF (`readBytes_eq_some`). -/
theorem addrAndInLenWritesStore : Obligations.AddrAndInLenWritesStore := by
  intro s v
  refine ⟨hostWrite_register v s (by decide) (by decide), ⟨_, hostWrite_register v s (by decide) (by decide), rfl, ?_⟩,
    fun xs => readBytes_eq_some⟩
  exact toNat_writeInLen v s.params.bufSize

/-! ### RES.VOK -/

/-- R151: the comparison of the check bytes. -/
theorem verify_iff {k : ChkKind} {xs cs : List Byte} : verify k xs cs = true ↔ cs = chk k xs := by simp [verify]

/-- R153: VOK after a VERIFY. -/
theorem checkVerify_resVok {k : ChkKind} {s t : State} (h : checkVerify k s = .next t) :
    t.resVok = true ↔ ∃ xs, inputBytes s = some xs ∧ checkLen k ≤ xs.length ∧
      xs.drop (xs.length - checkLen k) = chk k (xs.take (xs.length - checkLen k)) := by
  rcases checkVerify_next h with ⟨hshort, rfl⟩ | ⟨hlen, xs, hx, rfl⟩
  · refine ⟨fun hv => by simp at hv, ?_⟩
    rintro ⟨xs, hx, hlen, -⟩
    have := inputBytes_length hx
    omega
  · simp [verifyInput, verify_iff, hx, inputBytes_length hx, hlen]

theorem codecEnd_resVok {i : Instr} {s t : State} (h : CodecEnd i s t) (hb : i ≠ .verifyBcc) (hc : i ≠ .verifyCrc) :
    t.resVok = false := by
  cases h with
  | verified _ _ hv => exact absurd hv (by simp [hb, hc])
  | _ => rfl

/-- R24: every command but VERIFY leaves VOK 0, and so does RESET (R290). -/
theorem exec_resVok_eq_false {i : Instr} {s t : State} (h : exec i s = .next t) (hb : i ≠ .verifyBcc)
    (hc : i ≠ .verifyCrc) (ht : i ≠ .tick) (ha : arrivingBytes i = []) : t.resVok = false := by
  rcases instr_kinds i with hcodec | rfl | rfl | ⟨code, rfl⟩ | rfl | rfl | ⟨b, bs, hbs⟩
  · exact codecEnd_resVok (codec_codecEnd hcodec h) hb hc
  · rcases send_next h with ⟨e, -, rfl⟩ | ⟨-, body, -, rfl⟩ <;> rfl
  · cases h; rfl
  · cases h; rfl
  · exact absurd rfl ht
  · cases h; rfl
  · cases hbs.symm.trans ha

@[simp] theorem failAttempt_resVok (stage : Stage) (s : State) : (failAttempt stage s).resVok = s.resVok := by
  by_cases h : s.retryCount < s.maxRetries
  · rw [failAttempt_retry h]
  · rw [failAttempt_exhausted h]

@[simp] theorem tickState_resVok (s : State) : (tickState s).resVok = s.resVok := by
  rcases tickState_cases s with ⟨-, he⟩ | ⟨-, -, he⟩ | ⟨-, -, he⟩ <;> simp [he]

@[simp] theorem ackStep_resVok (b : Byte) (rest : List Byte) (s : State) : (ackStep b rest s).resVok = s.resVok := by
  rcases ackStep_cases b rest s with ⟨-, he⟩ | ⟨-, he⟩ <;> simp [he]

theorem replyStep_resVok {b : Byte} {rest : List Byte} {s t : State}
    (h : replyStep b rest s = .goOn t ∨ replyStep b rest s = .stop t) : t.resVok = s.resVok := by
  rcases replyStep_cases b rest s with
    ⟨-, he⟩ | ⟨-, ⟨-, he⟩ | ⟨-, he⟩ | ⟨_, _, _, _, -, ⟨-, he⟩ | ⟨-, he⟩⟩⟩ <;>
    rcases h with h | h <;> cases he.symm.trans h <;> simp

@[simp] theorem receive_resVok (b : Byte) (s : State) : (receive b s).resVok = s.resVok := by
  refine receive_keeps (P := fun u => u.resVok = s.resVok) b (fun _ hu => hu) ?_ ?_ ?_ rfl
  · exact fun h rest u _ _ hu => (ackStep_resVok h rest u).trans hu
  · exact fun h rest u t _ _ hq hu => (replyStep_resVok (.inl hq)).trans hu
  · exact fun h rest u t _ _ hq hu => (replyStep_resVok (.inr hq)).trans hu

/-- R24: VOK is no business of the port events. -/
theorem exec_resVok_unchanged {i : Instr} {s t : State} (h : exec i s = .next t)
    (hi : i = .tick ∨ arrivingBytes i ≠ []) : t.resVok = s.resVok := by
  rcases hi with rfl | ha
  · cases h; exact tickState_resVok s
  · obtain ⟨b, bs, hb⟩ := List.exists_cons_of_ne_nil ha
    rw [exec_of_arrivingBytes hb] at h
    cases h
    simp

/-- Settles O57: VERIFY compares, every other command and RESET clear VOK, and the port events leave it. -/
theorem vokOnlyAfterAMatchingVerify : Obligations.VokOnlyAfterAMatchingVerify := by
  intro i s t h
  refine ⟨?verify, exec_resVok_eq_false h, exec_resVok_unchanged h⟩
  rintro (rfl | rfl)
  · simpa using checkVerify_resVok (k := .bcc) h
  · simpa using checkVerify_resVok (k := .crc) h

/-! ### The reset state -/

/-- R5: the constants of Config are within the bounds. -/
theorem configParams_legal : Config.params.Legal := by
  have hb : Config.bufSizeChoice % 32760 < 32760 := Nat.mod_lt _ (by decide)
  have hm : Config.maxInteriorChoice % (Config.bufSize - 5) < Config.bufSize - 5 :=
    Nat.mod_lt _ (by simp only [Config.bufSize]; omega)
  simp only [Params.Legal, Config.params, Config.maxInterior]
  simp only [Config.bufSize] at hm ⊢
  omega

/-- Settles O59: the reset state meets the invariant clause by clause (`inv_resetWith`), and RESET keeps what is not the
block's own. -/
theorem resetMeetsTheInvariant : Obligations.ResetMeetsTheInvariant := by
  refine ⟨fun p hp => inv_resetWith hp, inv_resetWith configParams_legal, fun s t h => ?_⟩
  cases h
  exact ⟨fun a => rfl, rfl, rfl⟩

end Sys2Proof.Machine
end



section
/-! Host accesses (20_memory.md): which accesses are errors (R63 to R66), what a read returns (R61, R64), and what a write
stores and leaves alone (R64, R67, R68). -/

namespace Sys2Proof.Machine

/-! ### Access errors -/

/-- R65: an offset above the registers and outside the three buffers takes no access. -/
theorem accessErrorOf_ne_none_of_outside {p : Params} (hp : p.Legal) {a : Nat} (n : Nat)
    (ha : 0x40 ≤ a ∧ ¬(0x10000 ≤ a ∧ a < 0x10000 + p.bufSize) ∧
      ¬(0x20000 ≤ a ∧ a < 0x20000 + (2 * p.bufSize + 6)) ∧ ¬(0x30000 ≤ a ∧ a < 0x30000 + (p.maxInterior - 2))) :
    accessErrorOf p a n ≠ none := by
  rw [accessErrorOf_of_nowhere ((placeOf_nowhere hp).mpr ha)]
  exact Option.some_ne_none _

/-- Settles O11: below 0x40 stand the registers, and each of the other ranges lies outside every buffer, since no capacity
reaches into the window after it. -/
theorem registerAndUnmappedAccessRules : Obligations.RegisterAndUnmappedAccessRules := by
  intro p hp
  have ⟨_, hm, hb⟩ := hp
  refine ⟨fun a n ha => accessErrorOf_of_register (placeOf_register.mpr ha), fun a n _ _ => ?gap, fun i n _ _ => ?inBuf,
    fun i n _ _ => ?outBuf, fun i n _ _ => ?replyBuf, fun a n _ => ?beyond⟩
  all_goals exact accessErrorOf_ne_none_of_outside hp n (by omega)

/-- R64 for one buffer, by its window: `cap` bytes from `base` up. -/
theorem accessErrorOf_window {p : Params} {w : Place} {base cap i n : Nat}
    (hw : ∀ a, placeOf p a = w ↔ base ≤ a ∧ a < base + cap) (hr : w ≠ .register) (hn : w ≠ .nowhere)
    (hbase : base % 4 = 0) (hi : i < cap) :
    accessErrorOf p (base + i) n = none ↔ n = 1 ∨ (n = 4 ∧ i % 4 = 0 ∧ i + 3 < cap) := by
  have hplace : placeOf p (base + i) = w := (hw _).mpr (by omega)
  have haligned : (base + i) % 4 = 0 ↔ i % 4 = 0 := by omega
  have hlast : base ≤ base + i + 3 ∧ base + i + 3 < base + cap ↔ i + 3 < cap := by omega
  rw [accessErrorOf_of_buffer (hplace ▸ hr) (hplace ▸ hn), hplace, hw, haligned, hlast]

/-- R65: an access above the registers that is no error is one to a buffer. -/
theorem placeOf_accessed_buffer {p : Params} {a n : Nat} (ha : 0x40 ≤ a) (he : accessErrorOf p a n = none) :
    placeOf p a ≠ .register ∧ placeOf p a ≠ .nowhere :=
  ⟨mt placeOf_register.mp (Nat.not_lt.mpr ha), fun h => by simp [accessErrorOf_of_nowhere h] at he⟩

/-- R64: a 32-bit access outside the registers that is no error has its four bytes in one buffer. -/
theorem placeOf_accessed_word {p : Params} (hp : p.Legal) {a : Nat} (ha : 0x40 ≤ a) (he : accessErrorOf p a 4 = none) :
    ∀ x, a ≤ x → x ≤ a + 3 → placeOf p x = placeOf p a := by
  intro x hlo hhi
  obtain ⟨hr, hn⟩ := placeOf_accessed_buffer ha he
  obtain ⟨-, hlast⟩ : a % 4 = 0 ∧ placeOf p (a + 3) = placeOf p a := by
    simpa using (accessErrorOf_of_buffer hr hn).mp he
  cases hw : placeOf p a <;> rw [hw] at hlast
  case register => exact absurd hw hr
  case nowhere => exact absurd hw hn
  case inBuf => rw [placeOf_inBuf] at *; omega
  case outBuf => rw [placeOf_outBuf hp] at *; omega
  case replyBuf => rw [placeOf_replyBuf hp] at *; omega

/-! ### Reads -/

theorem hostRead_byte {s : State} {a : Nat} (hr : placeOf s.params a ≠ .register) (hn : placeOf s.params a ≠ .nowhere) :
    hostRead a 1 s = .next { s with lastRead := .byte (bufferByte s a) } :=
  hostRead_next.mpr ⟨(accessErrorOf_of_buffer hr hn).mpr (.inl rfl), by simp [readData, hr]⟩

section
variable {s : State} {a : Nat} {b : Byte}

theorem bufferByte_inBuf (ha : placeOf s.params a = .inBuf) (hb : readByte s.mem a = some b) : bufferByte s a = b := by
  simp [bufferByte, ha, hb]

theorem bufferByte_outBuf (ha : placeOf s.params a = .outBuf) (hl : a < 0x20000 + s.outLen.toNat)
    (hb : readByte s.mem a = some b) : bufferByte s a = b := by
  simp [bufferByte, ha, hb, outBufBase, hl]

theorem bufferByte_replyBuf (ha : placeOf s.params a = .replyBuf) (hl : a < 0x30000 + s.replyLen.toNat)
    (hb : readByte s.mem a = some b) : bufferByte s a = b := by
  simp [bufferByte, ha, hb, replyBufBase, hl]

end

/-- A byte below another number in binary. -/
theorem toNat_append_byte {w : Nat} (x : BitVec w) (b : Byte) : (x ++ b).toNat = 256 * x.toNat + b.toNat := by
  rw [BitVec.toNat_append, ← Nat.shiftLeft_add_eq_or_of_lt b.isLt, Nat.shiftLeft_eq]
  omega

/-- R64: the number that four bytes give, lowest first. -/
theorem toNat_littleEndian (b0 b1 b2 b3 : Byte) :
    (littleEndian b0 b1 b2 b3).toNat = b0.toNat + 256 * b1.toNat + 65536 * b2.toNat + 16777216 * b3.toNat := by
  rw [littleEndian, toNat_append_byte, toNat_append_byte, toNat_append_byte]
  omega

/-- R64: a word is the little-endian word of its four bytes. -/
theorem littleEndian_extract (v : Word) :
    littleEndian (v.extractLsb' 0 8) (v.extractLsb' 8 8) (v.extractLsb' 16 8) (v.extractLsb' 24 8) = v := by
  apply BitVec.eq_of_toNat_eq
  rw [toNat_littleEndian]
  simp only [BitVec.extractLsb'_toNat, Nat.shiftRight_eq_div_pow]
  omega

/-- R64: a word read outside the registers combines the four byte reads. -/
theorem hostRead_word_eq_bytes {s t : State} {a : Nat} (hp : s.params.Legal) (ha : 0x40 ≤ a)
    (h : hostRead a 4 s = .next t) :
    t.lastRead = .word (bufferWord s a) ∧
      ∀ x, a ≤ x → x ≤ a + 3 → hostRead x 1 s = .next { s with lastRead := .byte (bufferByte s x) } := by
  obtain ⟨he, rfl⟩ := hostRead_next.mp h
  obtain ⟨hr, hn⟩ := placeOf_accessed_buffer ha he
  refine ⟨by simp [readData, hr], fun x hlo hhi => ?_⟩
  have hx := placeOf_accessed_word hp ha he x hlo hhi
  exact hostRead_byte (hx ▸ hr) (hx ▸ hn)

/-! ### Words written to IN_BUF -/

/-- R64: the bytes of a word that has been written, one after the other. -/
theorem readByte_writeBytes_word (m : Memory) (a : Nat) (v : Word) :
    readByte (writeBytes m a (wordBytes v)) a = some (v.extractLsb' 0 8) ∧
    readByte (writeBytes m a (wordBytes v)) (a + 1) = some (v.extractLsb' 8 8) ∧
    readByte (writeBytes m a (wordBytes v)) (a + 2) = some (v.extractLsb' 16 8) ∧
    readByte (writeBytes m a (wordBytes v)) (a + 3) = some (v.extractLsb' 24 8) :=
  have h := readByte_writeBytes_inside (wordBytes v) m a
  ⟨h 0 (by simp [wordBytes]), h 1 (by simp [wordBytes]), h 2 (by simp [wordBytes]), h 3 (by simp [wordBytes])⟩

theorem writePlace_inBuf {s : State} {a : Nat} (n : Nat) (v : Word) (ha : placeOf s.params a = .inBuf) :
    writePlace a n v s = { s with mem := writeBytes s.mem a (writtenBytes n v) } := by
  simp only [writePlace, ha]

/-- R64: an IN_BUF word whose four bytes have been written reads as they say. -/
theorem hostRead_word_of_bytes {s : State} {a : Nat} {b0 b1 b2 b3 : Byte} (ha : placeOf s.params a = .inBuf)
    (he : accessErrorOf s.params a 4 = none) (h0 : readByte s.mem a = some b0) (h1 : readByte s.mem (a + 1) = some b1)
    (h2 : readByte s.mem (a + 2) = some b2) (h3 : readByte s.mem (a + 3) = some b3) :
    hostRead a 4 s = .next { s with lastRead := .word (littleEndian b0 b1 b2 b3) } := by
  have hplace (k : Nat) (hk : k < 4) : placeOf s.params (a + k) = .inBuf :=
    placeOf_accessed_inBuf (v := 0) ha he (a + k) (by omega) (by simp [writtenBytes, wordBytes, hk])
  refine hostRead_next.mpr ⟨he, ?_⟩
  simp [readData, ha, bufferWord, bufferByte_inBuf ha h0, bufferByte_inBuf (hplace 1 (by decide)) h1,
    bufferByte_inBuf (hplace 2 (by decide)) h2, bufferByte_inBuf (hplace 3 (by decide)) h3]

/-- Settles O12: the three windows by `accessErrorOf_window`, byte reads by `hostRead_byte`, and words by their bytes. -/
theorem bufferAccessRules : Obligations.BufferAccessRules := by
  intro p hp
  have hin {i n : Nat} := accessErrorOf_window (i := i) (n := n) (fun a => @placeOf_inBuf p a) (by decide) (by decide) rfl
  have hout {i n : Nat} :=
    accessErrorOf_window (i := i) (n := n) (fun a => @placeOf_outBuf p hp a) (by decide) (by decide) rfl
  have hreply {i n : Nat} :=
    accessErrorOf_window (i := i) (n := n) (fun a => @placeOf_replyBuf p hp a) (by decide) (by decide) rfl
  refine ⟨fun i n => hin, fun i n => hout, fun i n => hreply, ?byteReads, ?wordRead, ?wordWrite⟩
  case byteReads =>
    rintro s i b rfl
    refine ⟨fun hi hb => ?_, fun hi hl hb => ?_, fun hi hl hb => ?_⟩
    · have ha : placeOf s.params (0x10000 + i) = .inBuf := placeOf_inBuf.mpr (by omega)
      rw [hostRead_byte (by simp [ha]) (by simp [ha]), bufferByte_inBuf ha hb]
    · have ha : placeOf s.params (0x20000 + i) = .outBuf := (placeOf_outBuf hp).mpr (by omega)
      rw [hostRead_byte (by simp [ha]) (by simp [ha]), bufferByte_outBuf ha (by omega) hb]
    · have ha : placeOf s.params (0x30000 + i) = .replyBuf := (placeOf_replyBuf hp).mpr (by omega)
      rw [hostRead_byte (by simp [ha]) (by simp [ha]), bufferByte_replyBuf ha (by omega) hb]
  case wordRead =>
    rintro s t a rfl ha h
    obtain ⟨hword, hbytes⟩ := hostRead_word_eq_bytes hp ha h
    exact ⟨_, _, _, _, _, hword, hbytes a (by omega) (by omega), hbytes (a + 1) (by omega) (by omega),
      hbytes (a + 2) (by omega) (by omega), hbytes (a + 3) (by omega) (by omega), toNat_littleEndian ..⟩
  case wordWrite =>
    rintro s t i v rfl hi h
    obtain ⟨he, rfl⟩ := hostWrite_next.mp h
    have ha : placeOf s.params (0x10000 + i) = .inBuf := placeOf_inBuf.mpr (by omega)
    rw [writePlace_inBuf 4 v ha]
    obtain ⟨h0, h1, h2, h3⟩ := readByte_writeBytes_word s.mem (0x10000 + i) v
    have hread := hostRead_word_of_bytes (s := { s with mem := writeBytes s.mem (0x10000 + i) (wordBytes v) })
      ha he h0 h1 h2 h3
    rw [littleEndian_extract] at hread
    exact ⟨hread, h0, h1, h2, h3⟩

/-! ### Writes -/

/-- R68: the registers from OUT_LEN up, and RES, take no write. -/
theorem writeRegister_readOnly {a : Nat} (v : Word) (s : State) (ha : a = 0x004 ∨ 0x01C ≤ a) :
    writeRegister a v s = s := by
  unfold writeRegister
  split
  case h_6 => rfl
  all_goals omega

/-- R68: among the buffers IN_BUF alone takes a write. -/
theorem writePlace_readOnly {s : State} {a : Nat} (n : Nat) (v : Word) (hr : placeOf s.params a ≠ .register)
    (hi : placeOf s.params a ≠ .inBuf) : writePlace a n v s = s := by
  unfold writePlace
  split
  · next h => exact absurd h hr
  · next h => exact absurd h hi
  all_goals rfl

theorem writePlace_register {s : State} {a : Nat} (n : Nat) (v : Word) (ha : a < 0x40) :
    writePlace a n v s = writeRegister a v s := by
  simp only [writePlace, placeOf_register.mpr ha]

/-- Settles O16: a read-only register by `writeRegister_readOnly`, a window by `writePlace_readOnly`. -/
theorem readOnlyWritesAreIgnored : Obligations.ReadOnlyWritesAreIgnored := by
  intro s a n v hp he
  have ⟨_, _, hb⟩ := hp
  refine ⟨fun ha => hostWrite_next.mpr ⟨he, ?_⟩, hostRead_register s (by decide) (by decide)⟩
  by_cases hr : a < 0x40
  · rw [writePlace_register n v hr, writeRegister_readOnly v s (by omega)]
  · rw [writePlace_readOnly n v (by rwa [Ne, placeOf_register]) (by rw [Ne, placeOf_inBuf]; omega)]

/-- R67: the next states of a host write. It sets registers of the host's, stores to IN_BUF, or is ignored. -/
inductive HostWritten (a n : Nat) (v : Word) (s : State) : State → Prop where
  | register (ha : a < 0x40) (kind : ChkKind) (retries : BitVec 8) (ackTo replyTo : Word) (src dst : Byte) (inLen : Half) :
    HostWritten a n v s { s with
      chkKind := kind, maxRetries := retries, ackTo := ackTo, replyTo := replyTo, addrSrc := src, addrDst := dst
      inLen := inLen }
  | stored (ha : placeOf s.params a = .inBuf) (hlen : (writtenBytes n v).length = n) :
    HostWritten a n v s { s with mem := writeBytes s.mem a (writtenBytes n v) }
  | ignored (ha : placeOf s.params a ≠ .inBuf) : HostWritten a n v s s

theorem hostWritten_writeConfig {a n : Nat} {v : Word} {s : State} (ha : a < 0x40) (kind : ChkKind) (retries : BitVec 8)
    (ackTo replyTo : Word) :
    HostWritten a n v s
      (writeConfig s { s with chkKind := kind, maxRetries := retries, ackTo := ackTo, replyTo := replyTo }) := by
  cases hw : awaiting s with
  | true => rw [writeConfig_awaiting _ hw]; exact .register ha ..
  | false => rw [writeConfig_resting _ hw]; exact .register ha ..

theorem hostWritten_writeRegister {a : Nat} (n : Nat) (v : Word) (s : State) (ha : a < 0x40) :
    HostWritten a n v s (writeRegister a v s) := by
  unfold writeRegister
  split
  case h_1 => exact hostWritten_writeConfig ha ..
  case h_2 => exact hostWritten_writeConfig ha ..
  case h_3 => exact hostWritten_writeConfig ha ..
  all_goals exact .register ha ..

/-- R64: a buffer access stores as many bytes as it is wide. -/
theorem length_writtenBytes {p : Params} {a n : Nat} (v : Word) (ha : placeOf p a = .inBuf)
    (he : accessErrorOf p a n = none) : (writtenBytes n v).length = n := by
  rcases (accessErrorOf_of_buffer (by simp [ha]) (by simp [ha])).mp he with rfl | ⟨rfl, -, -⟩ <;> rfl

theorem hostWrite_written {a n : Nat} {v : Word} {s t : State} (h : hostWrite a n v s = .next t) :
    HostWritten a n v s t := by
  obtain ⟨he, rfl⟩ := hostWrite_next.mp h
  by_cases hr : a < 0x40
  · rw [writePlace_register n v hr]; exact hostWritten_writeRegister n v s hr
  · by_cases hi : placeOf s.params a = .inBuf
    · rw [writePlace_inBuf n v hi]; exact .stored hi (length_writtenBytes v hi he)
    · rw [writePlace_readOnly n v (by rwa [Ne, placeOf_register]) hi]; exact .ignored hi

section
variable {a n : Nat} {v : Word} {s t : State}

theorem HostWritten.sameTransaction (h : HostWritten a n v s t) : SameTransaction s t := by
  cases h <;> constructor <;> rfl

theorem HostWritten.sameResults (h : HostWritten a n v s t) : SameResults s t := by
  cases h <;> exact ⟨rfl, rfl, rfl, rfl, rfl, rfl⟩

/-- R67: a write leaves the parameters, the stimuli still to come and the host's data. -/
theorem HostWritten.sameSurroundings (h : HostWritten a n v s t) :
    t.params = s.params ∧ t.inputs = s.inputs ∧ t.lastRead = s.lastRead := by
  cases h <;> exact ⟨rfl, rfl, rfl⟩

theorem HostWritten.sameBytesOutside (h : HostWritten a n v s t) : SameBytesOutside a n s t := by
  cases h with
  | stored _ hlen => exact fun b hb => readByte_writeBytes_outside _ _ _ _ (by rwa [hlen])
  | register => exact fun b _ => rfl
  | ignored => exact fun b _ => rfl

/-- R44: a write outside IN_BUF's window stores no byte. -/
theorem HostWritten.sameBytes (h : HostWritten a n v s t) (hp : s.params.Legal) (ha : a < 0x10000 ∨ 0x20000 ≤ a) :
    SameBytes s t := by
  have ⟨_, _, hb⟩ := hp
  cases h with
  | stored hi => rw [placeOf_inBuf] at hi; omega
  | register => exact fun b => rfl
  | ignored => exact fun b => rfl

/-- R67: a write to a window sets no register. -/
theorem HostWritten.sameSetup (h : HostWritten a n v s t) (ha : 0x10000 ≤ a) : SameSetup s t := by
  cases h with
  | register hr => omega
  | stored => constructor <;> rfl
  | ignored => constructor <;> rfl

end

/-- R64: a byte written to IN_BUF's window, where that is no access error, is stored. -/
theorem hostWrite_byte_stored {a : Nat} {v : Word} {s t : State} (hp : s.params.Legal) (h : hostWrite a 1 v s = .next t)
    (hlo : 0x10000 ≤ a) (hhi : a < 0x20000) : readByte t.mem a = some (v.extractLsb' 0 8) := by
  obtain ⟨he, rfl⟩ := hostWrite_next.mp h
  have hi : placeOf s.params a = .inBuf := by
    by_contra hi
    exact accessErrorOf_ne_none_of_outside hp 1 ⟨by omega, mt placeOf_inBuf.mpr hi, by omega, by omega⟩ he
  rw [writePlace_inBuf 1 v hi]
  exact readByte_writeByte_same ..

/-- Settles O17: what `HostWritten` says of each end of the write, and the byte lane by `hostWrite_byte_stored`. -/
theorem hostWritesLeaveTheRestAlone : Obligations.HostWritesLeaveTheRestAlone := by
  intro s t a n v hp h
  have hw := hostWrite_written h
  obtain ⟨hparams, hinputs, hread⟩ := hw.sameSurroundings
  refine ⟨hw.sameTransaction, hw.sameResults, hparams, hinputs, hread, hw.sameBytes hp,
    fun ha => ⟨hw.sameBytesOutside, hw.sameSetup ha⟩, ?byteLane⟩
  rintro hlo hhi rfl
  exact hostWrite_byte_stored hp h hlo hhi

/-! ### Reads leave the block alone, and access errors are refused -/

/-- Settles O10: what a read finds does not rest on the data of an earlier one. -/
theorem hostReadsAreIdempotent : Obligations.HostReadsAreIdempotent := by
  intro s t a n h
  obtain ⟨he, rfl⟩ := hostRead_next.mp h
  have hsame : readData { s with lastRead := readData s a n } a n = readData s a n := rfl
  exact ⟨rfl, hostRead_next.mpr ⟨he, by simp only [hsame]⟩⟩

/-- R66: an access error is refused by its name. -/
theorem hostRead_refused {s : State} {a n : Nat} {e : AccessError} (h : accessErrorOf s.params a n = some e) :
    hostRead a n s = .refused (.accessError e) := by
  simp only [hostRead, h]

/-- R66. -/
theorem hostWrite_refused {s : State} {a n : Nat} {e : AccessError} (v : Word) (h : accessErrorOf s.params a n = some e) :
    hostWrite a n v s = .refused (.accessError e) := by
  simp only [hostWrite, h]

/-- Settles O13: `accessErrorOf` decides between the refusal and the completed access. -/
theorem accessErrorsAreRefused : Obligations.AccessErrorsAreRefused := by
  intro s a n v
  refine ⟨fun e he => ⟨hostRead_refused he, hostWrite_refused v he⟩, fun he => ⟨?read, fun _ => ?write⟩⟩
  case read => exact ⟨_, hostRead_next.mpr ⟨he, rfl⟩⟩
  case write => exact ⟨_, hostWrite_next.mpr ⟨he, rfl⟩⟩

/-! ### The fields of the registers -/

section
variable {v w start len i : Nat} {hi : BitVec v} {lo : BitVec w}

/-- A field that lies above the low part of a word lies in its high part. -/
theorem extractLsb'_append_above {field : BitVec len} (h : hi.extractLsb' (start - w) len = field)
    (hw : w ≤ start := by decide) : (hi ++ lo).extractLsb' start len = field :=
  (BitVec.extractLsb'_append_eq_of_le hw).trans h

/-- A bit that lies above the low part of a word lies in its high part. -/
theorem getLsbD_append_above {b : Bool} (h : hi.getLsbD (i - w) = b) (hw : w ≤ i := by decide) :
    (hi ++ lo).getLsbD i = b := by
  rw [BitVec.getLsbD_append, if_neg (Nat.not_lt.mpr hw), h]

/-- A bit that lies in the low part of a word. -/
theorem getLsbD_append_within {b : Bool} (h : lo.getLsbD i = b) (hw : i < w := by decide) :
    (hi ++ lo).getLsbD i = b := by
  rw [BitVec.getLsbD_append, if_pos hw, h]

end

theorem kindBit_getLsbD (k : ChkKind) : (kindBit k).getLsbD 0 = decide (k = .crc) := by cases k <;> rfl

theorem resWord_fields (s : State) :
    (resWord s).extractLsb' 0 8 = s.resCode.code ∧ (resWord s).getLsbD 8 = s.resVok ∧
      (resWord s).extractLsb' 9 23 = 0 :=
  ⟨BitVec.extractLsb'_append_eq_right, getLsbD_append_above (getLsbD_append_within (by simp)),
    extractLsb'_append_above BitVec.extractLsb'_append_eq_left⟩

theorem cfgWord_fields (s : State) :
    (cfgWord s).getLsbD 0 = decide (s.chkKind = .crc) ∧ (cfgWord s).extractLsb' 1 7 = 0 ∧
      (cfgWord s).extractLsb' 8 8 = s.maxRetries ∧ (cfgWord s).extractLsb' 16 16 = 0 :=
  ⟨getLsbD_append_within (kindBit_getLsbD _), extractLsb'_append_above BitVec.extractLsb'_append_eq_right,
    extractLsb'_append_above (extractLsb'_append_above BitVec.extractLsb'_append_eq_right),
    extractLsb'_append_above (extractLsb'_append_above BitVec.extractLsb'_append_eq_left)⟩

theorem addrWord_fields (s : State) :
    (addrWord s).extractLsb' 0 8 = s.addrSrc ∧ (addrWord s).extractLsb' 8 8 = s.addrDst ∧
      (addrWord s).extractLsb' 16 16 = 0 :=
  ⟨BitVec.extractLsb'_append_eq_right, extractLsb'_append_above BitVec.extractLsb'_append_eq_right,
    extractLsb'_append_above BitVec.extractLsb'_append_eq_left⟩

theorem decInfoWord_fields (s : State) :
    (decInfoWord s).extractLsb' 0 8 = s.decDst ∧ (decInfoWord s).extractLsb' 8 8 = s.decSrc ∧
      (decInfoWord s).extractLsb' 16 16 = s.decConsumed :=
  ⟨BitVec.extractLsb'_append_eq_right, extractLsb'_append_above BitVec.extractLsb'_append_eq_right,
    extractLsb'_append_above BitVec.extractLsb'_append_eq_left⟩

theorem tmStatusWord_fields (s : State) :
    (tmStatusWord s).extractLsb' 0 3 = s.tmState.code ∧ (tmStatusWord s).getLsbD 3 = false ∧
      (tmStatusWord s).extractLsb' 4 2 = s.fail.code ∧ (tmStatusWord s).extractLsb' 6 2 = 0 ∧
      (tmStatusWord s).getLsbD 8 = s.staleSeen ∧ (tmStatusWord s).extractLsb' 9 7 = 0 ∧
      (tmStatusWord s).extractLsb' 16 8 = s.retryCount ∧ (tmStatusWord s).extractLsb' 24 8 = 0 := by
  refine ⟨BitVec.extractLsb'_append_eq_right, getLsbD_append_above (getLsbD_append_within rfl), ?fail, ?reserved6,
    ?staleSeen, ?reserved9, ?retryCount, ?reserved24⟩
  case fail => exact extractLsb'_append_above (extractLsb'_append_above BitVec.extractLsb'_append_eq_right)
  case reserved6 =>
    exact extractLsb'_append_above (extractLsb'_append_above (extractLsb'_append_above BitVec.extractLsb'_append_eq_right))
  case staleSeen =>
    exact getLsbD_append_above (getLsbD_append_above (getLsbD_append_above (getLsbD_append_above
      (getLsbD_append_within (by simp)))))
  case reserved9 =>
    exact extractLsb'_append_above (extractLsb'_append_above (extractLsb'_append_above (extractLsb'_append_above
      (extractLsb'_append_above BitVec.extractLsb'_append_eq_right))))
  case retryCount =>
    exact extractLsb'_append_above (extractLsb'_append_above (extractLsb'_append_above (extractLsb'_append_above
      (extractLsb'_append_above (extractLsb'_append_above BitVec.extractLsb'_append_eq_right)))))
  case reserved24 =>
    exact extractLsb'_append_above (extractLsb'_append_above (extractLsb'_append_above (extractLsb'_append_above
      (extractLsb'_append_above (extractLsb'_append_above BitVec.extractLsb'_append_eq_left)))))

theorem tnsWord_fields (s : State) :
    (tnsWord s).extractLsb' 0 16 = s.tnsCur ∧ (tnsWord s).extractLsb' 16 16 = s.tnsNext :=
  ⟨BitVec.extractLsb'_append_eq_right, BitVec.extractLsb'_append_eq_left⟩

theorem replyInfoWord_fields (s : State) :
    (replyInfoWord s).extractLsb' 0 8 = s.replySts ∧ (replyInfoWord s).extractLsb' 8 8 = s.replyDst ∧
      (replyInfoWord s).extractLsb' 16 8 = s.replySrc ∧ (replyInfoWord s).extractLsb' 24 8 = 0 :=
  ⟨BitVec.extractLsb'_append_eq_right, extractLsb'_append_above BitVec.extractLsb'_append_eq_right,
    extractLsb'_append_above (extractLsb'_append_above BitVec.extractLsb'_append_eq_right),
    extractLsb'_append_above (extractLsb'_append_above BitVec.extractLsb'_append_eq_left)⟩

theorem lowHalf_fields (v : Half) : (lowHalf v).extractLsb' 0 16 = v ∧ (lowHalf v).extractLsb' 16 16 = 0 :=
  ⟨BitVec.extractLsb'_append_eq_right, BitVec.extractLsb'_append_eq_left⟩

/-- Settles O9: the reads by `hostRead_register`, and the fields word by word. -/
theorem registerReadsGiveTheFields : Obligations.RegisterReadsGiveTheFields := by
  intro s
  exact ⟨fun a ha h4 => hostRead_register s ha h4, rfl, resWord_fields s, cfgWord_fields s, rfl, rfl, addrWord_fields s,
    lowHalf_fields _, lowHalf_fields _, decInfoWord_fields s, tmStatusWord_fields s, tnsWord_fields s, rfl,
    replyInfoWord_fields s, lowHalf_fields _, lowHalf_fields _, lowHalf_fields _⟩

end Sys2Proof.Machine
end


section
/-! The encodings of 30_encoding.md: the command codes (R100, R101), the stimulus words by their top bits (R103) and the
wire tokens (R91, R92, R97): what the decoder reads from each, that it inverts the encoder, and how a token is received. -/

namespace Sys2Proof.Machine

/-! ### Command codes -/

theorem isReservedCode_iff {code : Byte} : isReservedCode code = true ↔ code ∉ assignedCodes := by simp [isReservedCode]

/-- R101: whichever assigned code an arm of the decoder asks for, it is not this one. -/
theorem decodeCommand_unassigned {code : Byte} (h : code ∉ assignedCodes) : decodeCommand code = .reserved code := by
  unfold decodeCommand
  split
  case h_13 => rfl
  all_goals
    rename_i hcode
    simp [assignedCodes, ← BitVec.toNat_inj, hcode] at h

theorem decodeCommand_assigned : ∀ code ∈ assignedCodes,
    (decodeCommand code).wf = true ∧ encode (decodeCommand code) = .stimulus (commandWord code) := by decide

/-- The command of a code is well formed, and its word is the code's. -/
theorem encode_decodeCommand (code : Byte) :
    (decodeCommand code).wf = true ∧ encode (decodeCommand code) = .stimulus (commandWord code) := by
  by_cases h : code ∈ assignedCodes
  · exact decodeCommand_assigned code h
  · rw [decodeCommand_unassigned h]
    exact ⟨isReservedCode_iff.mpr h, rfl⟩

/-- Settles O4: an unassigned code decodes to RESERVED, whose execution raises E_ILLEGAL and nothing else. -/
theorem reservedCodesAreIllegal : Obligations.ReservedCodesAreIllegal := by
  intro code s h
  have hreserved : decodeCommand code = .reserved code := decodeCommand_unassigned h
  exact ⟨hreserved, by rw [hreserved]; rfl⟩

/-! ### Stimulus words -/

theorem decodeStimulus_commandWord (code : Byte) : decodeStimulus (0b00#2 ++ code) = .ok (decodeCommand code) :=
  decode_commandWord code

theorem decodeStimulus_rxWord (b : Byte) : decodeStimulus (0b01#2 ++ b) = .ok (.rx b) := by
  have hlow : (0b01#2 ++ b).extractLsb' 0 8 = b := BitVec.extractLsb'_append_eq_right
  simp only [decodeStimulus, Laws.StimulusFormat.rxWord_top, hlow]
  rfl

/-- A stimulus word is its top two bits and a byte. -/
theorem stimulusWord_parts (w : BitVec 10) : ∃ (top : BitVec 2) (low : Byte), w = top ++ low := by
  have hparts : w.extractLsb' 8 2 ++ w.extractLsb' 0 8 = w.extractLsb' 0 10 :=
    BitVec.extractLsb'_append_extractLsb'_eq_extractLsb' rfl
  exact ⟨_, _, (hparts.trans BitVec.extractLsb'_eq_self).symm⟩

/-- R103: bits [9:8] are 00, 01, or bit 9 is set. -/
theorem stimulusWord_cases (w : BitVec 10) :
    (∃ code : Byte, w = 0b00#2 ++ code) ∨ (∃ b : Byte, w = 0b01#2 ++ b) ∨ w.getLsbD 9 = true := by
  obtain ⟨top, low, rfl⟩ := stimulusWord_parts w
  have htop : ∀ t : BitVec 2, t = 0b00#2 ∨ t = 0b01#2 ∨ t.getLsbD 1 = true := by decide
  rcases htop top with rfl | rfl | hbit
  · exact .inl ⟨low, rfl⟩
  · exact .inr (.inl ⟨low, rfl⟩)
  · exact .inr (.inr (getLsbD_append_above hbit))

/-- R103: of the words with bit 9 set the decoder takes two. -/
theorem decodeStimulus_refused {w : BitVec 10} (h9 : w.getLsbD 9 = true) (htick : w ≠ 0b1000000000#10)
    (hreset : w ≠ 0b1100000000#10) : decodeStimulus w = .error .notAStimulus := by
  have hbit : (w.extractLsb' 8 2).getLsbD 1 = true := by simpa using h9
  unfold decodeStimulus
  split
  case h_1 htop => simp [BitVec.eq_of_toNat_eq (y := 0b00#2) htop] at hbit
  case h_2 htop => simp [BitVec.eq_of_toNat_eq (y := 0b01#2) htop] at hbit
  case h_3 => exact if_neg htick
  case h_4 => exact if_neg hreset

/-- Settles O3, format by format. -/
theorem stimulusWordsReadByTheirTopBits : Obligations.StimulusWordsReadByTheirTopBits :=
  ⟨decodeStimulus_commandWord, decodeStimulus_rxWord, rfl, rfl, fun _ => decodeStimulus_refused⟩

/-- What is read from a stimulus word is well formed and has that word. -/
theorem encode_of_decodeStimulus {w : BitVec 10} {i : Instr} (h : decodeStimulus w = .ok i) :
    i.wf = true ∧ encode i = .stimulus w := by
  rcases stimulusWord_cases w with ⟨code, rfl⟩ | ⟨b, rfl⟩ | h9
  · rw [decodeStimulus_commandWord] at h
    cases h
    exact encode_decodeCommand code
  · rw [decodeStimulus_rxWord] at h
    cases h
    exact ⟨rfl, rfl⟩
  · by_cases htick : w = 0b1000000000#10
    · subst htick; cases h; exact ⟨rfl, rfl⟩
    by_cases hreset : w = 0b1100000000#10
    · subst hreset; cases h; exact ⟨rfl, rfl⟩
    · rw [decodeStimulus_refused h9 htick hreset] at h
      cases h

/-! ### Wire tokens -/

/-- What is read from the bytes of a token is well formed and has those bytes. -/
theorem encode_of_decodeWire {bytes : List Byte} {i : Instr} (h : decodeWire bytes = .ok i) :
    i.wf = true ∧ encode i = .wire bytes := by
  unfold decodeWire at h
  split at h
  case h_1 b =>
    split_ifs at h with hack hnak henq
    all_goals subst b; cases h; exact ⟨rfl, rfl⟩
  case h_2 b c =>
    split_ifs at h with hdle hstx hetx hdle2
    all_goals subst b c; cases h; exact ⟨rfl, rfl⟩
  case h_3 => cases h

/-! ### The two round trips -/

/-- Settles O1: a command by the word of its code, a received byte by its word, and every other encoding is one word or
one list of bytes. -/
theorem decodeOfEncodeIsTheInstruction : Obligations.DecodeOfEncodeIsTheInstruction := by
  intro i hwf
  cases i with
  | reserved code =>
    exact (decode_commandWord code).trans (congrArg _ (decodeCommand_unassigned (isReservedCode_iff.mp hwf)))
  | rx b => exact decodeStimulus_rxWord b
  | stuff | destuff | chkBcc | chkCrc | verifyBcc | verifyCrc | encodeBcc | encodeCrc | decodeBcc | decodeCrc | send
  | cancel => exact decode_commandWord _
  | tick | reset | wireStartDelim | wireEndDelim | wireDleDle | wireAck | wireNak | wireEnq => rfl

/-- Settles O2, for the words and for the wire. -/
theorem encodeOfDecodeIsTheEncoding : Obligations.EncodeOfDecodeIsTheEncoding := by
  intro e i h
  cases e with
  | stimulus w => exact encode_of_decodeStimulus h
  | wire bytes => exact encode_of_decodeWire h

/-! ### The words of the opcode table -/

/-- A table word that stands for an instruction's encoding decodes to it. -/
theorem decodeTableWord_of_encoding {nbits w : Nat} {i : Instr} (hwf : i.wf = true)
    (h : tableEncoding nbits w = encode i) : decodeTableWord nbits w = some i := by
  simp only [decodeTableWord, h, decodeOfEncodeIsTheInstruction i hwf]

/-- Settles O5: the words are those of the encoder, which the decoder inverts; 0x201 is the word of TICK with bit 0 set. -/
theorem tableWordsDecodeToTheirRows : Obligations.TableWordsDecodeToTheirRows := by
  refine ⟨?_, ?_, ?_, ?_, ?_, ?_, ?_, ?_, ?_, ?_, ?_, ?_, ?_, ?_, ?_, ?_, ?refused, ?_, ?_, ?_,
    ?ack, ?nak, ?enq⟩
  case refused => rfl
  case ack => exact decodeOfEncodeIsTheInstruction .wireAck rfl
  case nak => exact decodeOfEncodeIsTheInstruction .wireNak rfl
  case enq => exact decodeOfEncodeIsTheInstruction .wireEnq rfl
  all_goals exact decodeTableWord_of_encoding rfl rfl

/-! ### A token's bytes, one a step -/

/-- A token of one byte is received at once. -/
theorem exec_wire_single {i : Instr} {b : Byte} (h : encode i = .wire [b]) (s : State) :
    exec i s = .next (receive b s) :=
  exec_wire h s

/-- A token of two bytes leaves its second to the next step. -/
theorem exec_wire_pair {i : Instr} {b c : Byte} (h : encode i = .wire [b, c]) (s : State) :
    exec i s = .next { receive b s with inputs := .coded (.stimulus (0b01#2 ++ c)) :: s.inputs } := by
  rw [exec_wire h, present, receive_inputs]
  rfl

/-- The step of a presented token is the step of its bytes presented in its place. -/
theorem step_wire {bytes : List Byte} {i : Instr} (h : decodeWire bytes = .ok i) (s : State) (rest : List Stimulus) :
    step { s with inputs := .coded (.wire bytes) :: rest } = step (present bytes { s with inputs := rest }) := by
  cases bytes with
  | nil => cases h
  | cons b bs =>
    obtain ⟨-, henc⟩ := encode_of_decodeWire h
    have hrequest : requestOf (.coded (.wire (b :: bs))) = .run i := requestOf_coded_ok h
    rw [step_cons hrequest, exec_wire henc, step_present]

/-- Settles O54: each token by its bytes (`exec_wire_pair`, `exec_wire_single`), and its step by `step_wire`. -/
theorem wireTokensAreTheirBytes : Obligations.WireTokensAreTheirBytes := by
  intro s
  exact ⟨⟨_, rfl, exec_wire_pair rfl s, exec_wire_pair rfl s, exec_wire_pair rfl s⟩,
    ⟨_, rfl, exec_wire_single rfl s⟩, ⟨_, rfl, exec_wire_single rfl s⟩, ⟨_, rfl, exec_wire_single rfl s⟩,
    fun _ _ rest h => step_wire h s rest⟩

end Sys2Proof.Machine
end

section
/-! The stuffer and the destuffer (40_stuffing.md), and the frame of the codec commands: stuffing over a byte sequence (R120),
that destuffing inverts it (R125), the runs of DLE on which destuffing fails (R126), the two commands (R121, R124), and what a
codec command leaves alone (R237). -/

namespace Sys2Proof.Machine

/-! ### Stuffing -/

/-- R120: every DLE doubled, every other byte copied. -/
theorem stuff_eq_flatMap (xs : List Byte) : stuff xs = xs.flatMap fun b => if b = dle then [dle, dle] else [b] := by
  induction xs with
  | nil => rfl
  | cons b xs ih => rw [stuff, List.flatMap_cons, ← ih]; split <;> rfl

/-- R120: stuffing adds one byte per DLE. -/
theorem length_stuff (xs : List Byte) : (stuff xs).length = xs.length + xs.count dle := by
  induction xs with
  | nil => rfl
  | cons b xs ih =>
    by_cases hb : b = dle
    · subst hb; simp [ih]; omega
    · simp [stuff_cons_other xs hb, List.count_cons_of_ne hb, ih]; omega

/-- Settles O18: both clauses by induction on the sequence. -/
theorem stuffDoublesEveryDle : Obligations.StuffDoublesEveryDle :=
  fun xs => ⟨stuff_eq_flatMap xs, length_stuff xs⟩

theorem stuff_replicate_dle (n : Nat) : stuff (List.replicate n dle) = List.replicate (2 * n) dle := by
  induction n with
  | zero => rfl
  | succ n ih => rw [List.replicate_succ, stuff_cons_dle, ih]; rfl

/-! ### Destuffing -/

/-- What stands before a sequence and is stuffed is destuffed apart from it. -/
theorem destuff_stuff_append (xs ys : List Byte) : destuff (stuff xs ++ ys) = (destuff ys).map (xs ++ ·) := by
  induction xs with
  | nil => simp
  | cons b xs ih =>
    by_cases hb : b = dle
    · subst hb; simp [ih, Function.comp_def]
    · simp [stuff_cons_other xs hb, destuff_cons_other _ hb, ih, Function.comp_def]

/-- R125: destuffing inverts stuffing. -/
@[simp] theorem destuff_stuff (xs : List Byte) : destuff (stuff xs) = some xs := by
  simpa using destuff_stuff_append xs []

/-- R125: only a stuffed sequence is destuffed. -/
theorem stuff_of_destuff {xs ys : List Byte} (h : destuff ys = some xs) : stuff xs = ys := by
  induction ys using destuff.induct generalizing xs with
  | case1 => cases h; rfl
  | case2 => cases h
  | case3 b hb =>
    obtain ⟨_, ⟨⟩, rfl⟩ := Option.map_eq_some_iff.mp ((destuff_cons_other [] hb).symm.trans h)
    exact stuff_cons_other [] hb
  | case4 ys ih =>
    obtain ⟨zs, hz, rfl⟩ := Option.map_eq_some_iff.mp ((destuff_dle_dle ys).symm.trans h)
    rw [stuff_cons_dle, ih hz]
  | case5 c ys hc => cases (destuff_dle_other ys hc).symm.trans h
  | case6 b c ys hb ih =>
    obtain ⟨zs, hz, rfl⟩ := Option.map_eq_some_iff.mp ((destuff_cons_other _ hb).symm.trans h)
    rw [stuff_cons_other zs hb, ih hz]

/-- Settles O19: one direction by induction on the sequence, the other along the cases of the destuffer. -/
theorem destuffInvertsStuff : Obligations.DestuffInvertsStuff :=
  ⟨destuff_stuff, fun _ _ => stuff_of_destuff⟩

/-- Destuffable bytes are destuffed apart from what follows them. -/
theorem destuff_append {pre xs : List Byte} (h : destuff pre = some xs) (ys : List Byte) :
    destuff (pre ++ ys) = (destuff ys).map (xs ++ ·) := by
  rw [← stuff_of_destuff h, destuff_stuff_append]

/-- A run of DLE of even length is halved, whatever follows it. -/
theorem destuff_even_run_append (n : Nat) (ys : List Byte) :
    destuff (List.replicate (2 * n) dle ++ ys) = (destuff ys).map (List.replicate n dle ++ ·) := by
  rw [← stuff_replicate_dle, destuff_stuff_append]

/-- A failure stays one whatever follows, unless its last byte is a DLE, which a DLE that follows could pair. -/
theorem destuff_append_eq_none {pre : List Byte} (ys : List Byte) (h : destuff pre = none)
    (hl : pre.getLast? ≠ some dle) : destuff (pre ++ ys) = none := by
  induction pre using destuff.induct with
  | case1 => cases h
  | case2 => exact absurd rfl hl
  | case3 b hb => simp [destuff_cons_other [] hb] at h
  | case4 pre ih =>
    have hpre : destuff pre = none := by simpa using h
    have hlast : pre.getLast? ≠ some dle := by rintro hp; simp [List.getLast?_cons, hp] at hl
    simp [ih hpre hlast]
  | case5 c pre hc => exact destuff_dle_other _ hc
  | case6 b c pre hb ih =>
    have hpre : destuff (c :: pre) = none := by simpa [destuff_cons_other _ hb] using h
    rw [List.cons_append, destuff_cons_other _ hb, ih hpre (by simpa using hl), Option.map_none]

/-! ### Runs of DLE -/

/-- R126: a maximal run of DLE of odd length. -/
def HasOddRun (ys : List Byte) : Prop :=
  ∃ (pre post : List Byte) (n : Nat), ys = pre ++ List.replicate (2 * n + 1) dle ++ post ∧
    pre.getLast? ≠ some dle ∧ post.head? ≠ some dle

/-- A DLE with no DLE after it is a run of length 1. -/
theorem hasOddRun_lone {post : List Byte} (h : post.head? ≠ some dle) : HasOddRun (dle :: post) :=
  ⟨[], post, 0, rfl, by simp, h⟩

/-- Two DLE before a sequence lengthen the run it begins with by two, or are a run of their own. -/
theorem HasOddRun.cons_dle_dle {ys : List Byte} (h : HasOddRun ys) : HasOddRun (dle :: dle :: ys) := by
  obtain ⟨pre, post, n, rfl, hpre, hpost⟩ := h
  cases pre with
  | nil => exact ⟨[], post, n + 1, rfl, hpre, hpost⟩
  | cons b pre => exact ⟨dle :: dle :: b :: pre, post, n, rfl, by simpa using hpre, hpost⟩

theorem HasOddRun.cons_other {b : Byte} {ys : List Byte} (h : HasOddRun ys) (hb : b ≠ dle) : HasOddRun (b :: ys) := by
  obtain ⟨pre, post, n, rfl, hpre, hpost⟩ := h
  refine ⟨b :: pre, post, n, rfl, ?_, hpost⟩
  cases pre with
  | nil => simpa using hb
  | cons c pre => simpa using hpre

theorem hasOddRun_of_destuff_eq_none {ys : List Byte} (h : destuff ys = none) : HasOddRun ys := by
  induction ys using destuff.induct with
  | case1 => cases h
  | case2 => exact hasOddRun_lone (by simp)
  | case3 b hb => simp [destuff_cons_other [] hb] at h
  | case4 ys ih => exact (ih (by simpa using h)).cons_dle_dle
  | case5 c ys hc => exact hasOddRun_lone (by simpa using hc)
  | case6 b c ys hb ih => exact (ih (by simpa [destuff_cons_other _ hb] using h)).cons_other hb

theorem destuff_cons_dle_eq_none {post : List Byte} (h : post.head? ≠ some dle) : destuff (dle :: post) = none := by
  cases post with
  | nil => exact destuff_lone_dle
  | cons c post => exact destuff_dle_other post (by simpa using h)

/-- A run of odd length, paired up from its start, leaves one DLE alone. -/
theorem destuff_eq_none_of_hasOddRun {ys : List Byte} (h : HasOddRun ys) : destuff ys = none := by
  obtain ⟨pre, post, n, rfl, hpre, hpost⟩ := h
  have hrun : destuff (List.replicate (2 * n + 1) dle ++ post) = none := by
    rw [List.replicate_succ', List.append_assoc, destuff_even_run_append]
    simp [destuff_cons_dle_eq_none hpost]
  rw [List.append_assoc]
  cases hp : destuff pre with
  | none => exact destuff_append_eq_none _ hp hpre
  | some xs => rw [destuff_append hp, hrun, Option.map_none]

/-- R126: a run of even length between destuffable parts is halved. -/
theorem destuff_even_run {pre post xs zs : List Byte} (n : Nat) (hpre : destuff pre = some xs)
    (hpost : destuff post = some zs) :
    destuff (pre ++ List.replicate (2 * n) dle ++ post) = some (xs ++ List.replicate n dle ++ zs) := by
  simp [destuff_append hpre, destuff_even_run_append, hpost]

/-- Settles O20: a failure by `HasOddRun`, both ways, and an even run by `destuff_even_run`. -/
theorem destuffFailsExactlyOnOddRuns : Obligations.DestuffFailsExactlyOnOddRuns :=
  ⟨fun _ => ⟨hasOddRun_of_destuff_eq_none, destuff_eq_none_of_hasOddRun⟩,
    fun _ _ _ _ n hpre hpost => destuff_even_run n hpre hpost, rfl, rfl, rfl⟩

/-! ### The frame of the codec commands -/

section
variable {i : Instr} {k : ChkKind} {s t : State}

/-- R237: a codec command leaves the transaction alone. -/
theorem codec_sameTransaction (hc : isCodec i = true) (h : exec i s = .next t) : SameTransaction s t := by
  rw [codec_shape hc h]; constructor <;> rfl

/-- A codec command leaves the host's registers alone. -/
theorem codec_sameSetup (hc : isCodec i = true) (h : exec i s = .next t) : SameSetup s t := by
  rw [codec_shape hc h]; constructor <;> rfl

/-- What a codec command stores lies at the start of OUT_BUF. -/
theorem CodecEnd.sameBytesOutside (h : CodecEnd i s t) : SameBytesOutside 0x20000 (storedBytes i s).length s t := by
  cases h with
  | wrote => exact readByte_writeBytes_outside _ _ _
  | decoded => exact readByte_writeBytes_outside _ _ _
  | failed | undecoded | verified => exact fun _ _ => rfl

/-- R153: VERIFY writes RES alone. -/
theorem checkVerify_writesResAlone (h : checkVerify k s = .next t) : ∃ code vok, t = setRes code vok s := by
  rcases checkVerify_next h with ⟨-, rfl⟩ | ⟨-, xs, -, rfl⟩ <;> exact ⟨_, _, rfl⟩

theorem verify_writesResAlone (hi : i = .verifyBcc ∨ i = .verifyCrc) (h : exec i s = .next t) :
    ∃ code vok, t = setRes code vok s := by
  rcases hi with rfl | rfl <;> exact checkVerify_writesResAlone h

theorem destuffInput_sameDecInfo (s : State) (ys : List Byte) : SameDecInfo s (destuffInput s ys) := by
  cases hd : destuff ys <;> simp only [destuffInput, hd] <;> exact ⟨rfl, rfl, rfl⟩

theorem encodeInput_sameDecInfo (k : ChkKind) (s : State) (body : List Byte) : SameDecInfo s (encodeInput k s body) := by
  cases hf : encodeFrame s.params.maxInterior s.addrSrc s.addrDst body k <;>
    simp only [encodeInput, hf] <;> exact ⟨rfl, rfl, rfl⟩

theorem withInput_sameDecInfo {effect : List Byte → State} (h : withInput s effect = .next t)
    (he : ∀ xs, SameDecInfo s (effect xs)) : SameDecInfo s t := by
  obtain ⟨xs, -, rfl⟩ := withInput_next.mp h
  exact he xs

theorem encodeCommand_sameDecInfo (h : encodeCommand k s = .next t) : SameDecInfo s t := by
  rw [encodeCommand] at h
  split at h
  · cases h; exact ⟨rfl, rfl, rfl⟩
  · exact withInput_sameDecInfo h (encodeInput_sameDecInfo k s)

/-- R32: of the codec commands only DECODE writes DEC_INFO. -/
theorem codec_sameDecInfo (hc : isCodec i = true) (h : exec i s = .next t) (hb : i ≠ .decodeBcc) (hk : i ≠ .decodeCrc) :
    SameDecInfo s t := by
  cases i <;> simp only [isCodec, Bool.false_eq_true] at hc
  case stuff | chkBcc | chkCrc => exact withInput_sameDecInfo h fun _ => ⟨rfl, rfl, rfl⟩
  case destuff => exact withInput_sameDecInfo h (destuffInput_sameDecInfo s)
  case verifyBcc | verifyCrc => obtain ⟨_, _, rfl⟩ := checkVerify_writesResAlone h; exact ⟨rfl, rfl, rfl⟩
  case encodeBcc | encodeCrc => exact encodeCommand_sameDecInfo h
  case decodeBcc => exact absurd rfl hb
  case decodeCrc => exact absurd rfl hk

end

/-- Settles O35: the registers by `codec_shape`, the memory by the ends of the command, VERIFY by its writing RES alone. -/
theorem codecCommandsFrame : Obligations.CodecCommandsFrame := by
  intro i s t hc h
  refine ⟨codec_sameTransaction hc h, codec_sameSetup hc h, (codec_codecEnd hc h).sameBytesOutside,
    codec_sameDecInfo hc h, fun hi => ?verify⟩
  obtain ⟨_, _, rfl⟩ := verify_writesResAlone hi h
  exact ⟨fun _ => rfl, rfl⟩

/-! ### STUFF and DESTUFF -/

/-- R31: an output whose length fits OUT_LEN reads back from OUT_BUF, under RES OK with VOK 0. -/
theorem finish_setOut_output {bs : List Byte} (s : State) (h : bs.length < 65536) :
    (finish (setOut bs s)).outLen.toNat = bs.length ∧
    readBytes (finish (setOut bs s)).mem 0x20000 bs.length = some bs ∧
    (finish (setOut bs s)).resCode = .ok ∧ (finish (setOut bs s)).resVok = false :=
  ⟨by simp [Nat.mod_eq_of_lt h], readBytes_writeBytes_same s.mem 0x20000 bs, rfl, rfl⟩

theorem exec_stuff {s : State} {xs : List Byte} (h : inputBytes s = some xs) :
    exec .stuff s = .next (finish (setOut (stuff xs) s)) :=
  withInput_next.mpr ⟨xs, h, rfl⟩

theorem exec_destuff {s : State} {ys : List Byte} (h : inputBytes s = some ys) :
    exec .destuff s = .next (destuffInput s ys) :=
  withInput_next.mpr ⟨ys, h, rfl⟩

/-- Settles O21: the stuffed input is at most twice BUF_SIZE long, so that OUT_LEN holds its length. -/
theorem stuffCommandWritesTheStuffedInput : Obligations.StuffCommandWritesTheStuffedInput := by
  intro s xs hs hx
  obtain ⟨-, -, hbuf⟩ := hs.legal
  have hin := inputBytes_length_le hs hx
  have hstuff := length_stuff_le xs
  obtain ⟨hlen, hread, hok, hvok⟩ := finish_setOut_output s (bs := stuff xs) (by omega)
  have hexec := exec_stuff hx
  exact ⟨_, hexec, hlen, hread, hok, hvok, codec_sameTransaction rfl hexec,
    codec_sameDecInfo rfl hexec nofun nofun, codec_sameSetup rfl hexec⟩

/-- Settles O22: the two ends of `destuffInput`; a destuffed input is no longer than the input. -/
theorem destuffCommandWritesTheDestuffedInput : Obligations.DestuffCommandWritesTheDestuffedInput := by
  intro s ys hs hy
  refine ⟨fun out hd => ?destuffed, fun hd => ?malformed⟩
  case destuffed =>
    obtain ⟨-, -, hbuf⟩ := hs.legal
    have hin := inputBytes_length_le hs hy
    have hout := length_destuff_le ys out hd
    refine ⟨_, exec_destuff hy, ?_⟩
    simpa only [destuffInput, hd] using finish_setOut_output s (bs := out) (by omega)
  case malformed => rw [exec_destuff hy, destuffInput, hd]; rfl

end Sys2Proof.Machine
end

section
/-! The checksum engine (41_checksum.md): the BCC (R140, R141), the CRC by its table (R145, R146), that a changed byte changes
the check value of either kind (R154), and the commands CHK (R152) and VERIFY (R153). -/

namespace Sys2Proof.Machine

/-! ### The BCC -/

theorem toNat_bcc (xs : List Byte) : (bcc xs).toNat = (256 - (xs.map BitVec.toNat).sum % 256) % 256 := by
  rw [bcc, BitVec.toNat_neg, toNat_byteSum]

theorem verify_bcc_eq (xs : List Byte) (c : Byte) : verify .bcc xs [c] = decide (c = bcc xs) := by
  simp [verify, chk]

/-- Settles O23: the BCC as a number, and the check byte as the one that completes the sum to 0. -/
theorem bccMakesTheSumZero : Obligations.BccMakesTheSumZero := by
  intro xs
  have hbcc := toNat_bcc xs
  refine ⟨hbcc, by omega, fun c => ?_⟩
  have hc : c.toNat < 256 := c.isLt
  rw [verify_bcc_eq, decide_eq_true_iff, ← BitVec.toNat_inj]
  omega

/-! ### The CRC by its table -/

/-- The update is linear over XOR, in the register and the byte together. -/
theorem crcUpdate_xor (c d : Half) (a b : Byte) : crcUpdate (c ^^^ d) (a ^^^ b) = crcUpdate c a ^^^ crcUpdate d b := by
  simp only [crcUpdate, ← crcRounds_xor, BitVec.setWidth_xor]
  ac_rfl

/-- No round meets a set bit while the low bits are 0, so that the rounds only shift. -/
theorem crcRounds_of_low_zero (n : Nat) : ∀ c : Half, (∀ i < n, c.getLsbD i = false) → crcRounds n c = c >>> n := by
  induction n with
  | zero => exact fun _ _ => rfl
  | succ n ih =>
    intro c hlow
    have hround : crcRound c = c >>> 1 := by
      have h0 : c.getLsbD 0 = false := hlow 0 (by omega)
      rw [crcRound, h0, if_neg Bool.false_ne_true]
    have hshifted : ∀ i < n, (c >>> 1).getLsbD i = false := fun i hi => by simp [hlow (1 + i) (by omega)]
    rw [crcRounds, hround, ih _ hshifted, ← BitVec.shiftRight_add, Nat.add_comm]

/-- The rounds shift the high byte down. -/
theorem crcUpdate_high (c : Half) : crcUpdate (c >>> 8 <<< 8) 0 = c >>> 8 := by
  have hshift : crcUpdate (c >>> 8 <<< 8) 0 = c >>> 8 <<< 8 >>> 8 := by
    simpa [crcUpdate] using crcRounds_of_low_zero 8 (c >>> 8 <<< 8) fun i hi => by simp [hi]
  rw [hshift]
  exact BitVec.eq_of_getLsbD_eq fun i _ => by simpa using BitVec.lt_of_getLsbD

/-- The low byte and the input byte count by their XOR alone. -/
theorem crcUpdate_low (a b : Byte) : crcUpdate (a.setWidth 16) b = crcUpdate 0 (a ^^^ b) := by
  simp [crcUpdate, BitVec.setWidth_xor]

/-- A half is its high byte in place, XOR its low byte. -/
theorem high_xor_low (c : Half) : c = c >>> 8 <<< 8 ^^^ (c.extractLsb' 0 8).setWidth 16 := by
  refine BitVec.eq_of_getLsbD_eq fun i hi => ?_
  by_cases h8 : i < 8
  · simp [h8, hi]
  · simp [h8, hi, show 8 + (i - 8) = i by omega]

/-- R146: the table-driven step. -/
theorem crcUpdate_eq_table (c : Half) (b : Byte) : crcUpdate c b = (c >>> 8) ^^^ crcUpdate 0 (c.extractLsb' 0 8 ^^^ b) :=
  calc crcUpdate c b
    _ = crcUpdate (c >>> 8 <<< 8 ^^^ (c.extractLsb' 0 8).setWidth 16) (0 ^^^ b) := by simp [← high_xor_low]
    _ = crcUpdate (c >>> 8 <<< 8) 0 ^^^ crcUpdate ((c.extractLsb' 0 8).setWidth 16) b := crcUpdate_xor ..
    _ = (c >>> 8) ^^^ crcUpdate 0 (c.extractLsb' 0 8 ^^^ b) := by rw [crcUpdate_high, crcUpdate_low]

theorem crc16_append (xs ys : List Byte) : crc16 (xs ++ ys) = ys.foldl crcUpdate (crc16 xs) := List.foldl_append

/-- Settles O24: the step by linearity, the high byte being shifted and the low byte looked up; the entries by running the
rounds. -/
theorem crcStepIsTableDriven : Obligations.CrcStepIsTableDriven :=
  ⟨crcUpdate_eq_table, by decide, fun a b => by simpa using crcUpdate_xor 0 0 a b, rfl,
    fun xs b => crc16_append xs [b], by decide +kernel⟩

/-! ### One changed byte -/

theorem crcUpdate_left_injective {c d : Half} {b : Byte} (h : crcUpdate c b = crcUpdate d b) : c = d :=
  (BitVec.xor_left_inj _).mp (crcRounds_injective 8 h)

theorem foldl_crcUpdate_injective {xs : List Byte} : ∀ {c d : Half}, xs.foldl crcUpdate c = xs.foldl crcUpdate d → c = d := by
  induction xs with
  | nil => exact id
  | cons b xs ih => exact fun h => crcUpdate_left_injective (ih h)

theorem crcUpdate_right_injective {c : Half} {a b : Byte} (h : crcUpdate c a = crcUpdate c b) : a = b := by
  have hwide : a.setWidth 16 = b.setWidth 16 := (BitVec.xor_right_inj _).mp (crcRounds_injective 8 h)
  simpa using congrArg (BitVec.setWidth 8) hwide

theorem crc16_byte_injective {pre post : List Byte} {a b : Byte} (h : crc16 (pre ++ a :: post) = crc16 (pre ++ b :: post)) :
    a = b := by
  simp only [crc16_append, List.foldl_cons] at h
  exact crcUpdate_right_injective (foldl_crcUpdate_injective h)

theorem bcc_byte_injective {pre post : List Byte} {a b : Byte} (h : bcc (pre ++ a :: post) = bcc (pre ++ b :: post)) :
    a = b := by
  simpa [bcc, byteSum_append, byteSum] using h

/-- The two check bytes of the CRC determine it (R147). -/
theorem half_lo8_hi8 (v : Half) : half (lo8 v) (hi8 v) = v := by
  rw [half, lo8, hi8, BitVec.extractLsb'_append_extractLsb'_eq_extractLsb' (by decide), BitVec.extractLsb'_eq_self]

/-- R154: two sequences that differ in one byte have different check values. -/
theorem chk_byte_injective {k : ChkKind} {pre post : List Byte} {a b : Byte}
    (h : chk k (pre ++ a :: post) = chk k (pre ++ b :: post)) : a = b := by
  cases k with
  | bcc => exact bcc_byte_injective (List.singleton_inj.mp h)
  | crc =>
    obtain ⟨hlo, hhi⟩ : _ ∧ _ := by simpa only [chk, List.cons.injEq, and_true] using h
    apply crc16_byte_injective (pre := pre) (post := post)
    rw [← half_lo8_hi8 (crc16 (pre ++ a :: post)), hlo, hhi, half_lo8_hi8]

theorem xor_bit_ne_self (b : Byte) {j : Nat} (hj : j < 8) : b ^^^ (1#8 <<< j) ≠ b := by
  intro h
  have hbit := congrArg (fun x : Byte => x.getLsbD j) h
  simp [hj] at hbit

/-- Settles O25: a flipped bit is a changed byte. -/
theorem singleBitFlipsChangeTheCheckValue : Obligations.SingleBitFlipsChangeTheCheckValue :=
  fun _ _ _ b _ hj h => xor_bit_ne_self b hj (chk_byte_injective h)

/-! ### CHK -/

theorem checkCompute_eq {k : ChkKind} {s : State} {xs : List Byte} (h : inputBytes s = some xs) :
    checkCompute k s = .next (finish (setOut (chk k xs) s)) :=
  withInput_next.mpr ⟨xs, h, rfl⟩

/-- R31: a byte of the output, at its index of OUT_BUF. -/
theorem readByte_finish_setOut (s : State) {bs : List Byte} (i : Nat) (h : i < bs.length) :
    readByte (finish (setOut bs s)).mem (0x20000 + i) = some bs[i] :=
  readByte_writeBytes_inside bs s.mem 0x20000 i h

/-- Settles O26: the check bytes read back from OUT_BUF, one or two. -/
theorem checkCommandsWriteTheCheckValue : Obligations.CheckCommandsWriteTheCheckValue := fun s xs hx =>
  ⟨⟨_, checkCompute_eq (k := .bcc) hx, rfl, readByte_finish_setOut s (bs := chk .bcc xs) 0 Nat.one_pos, rfl, rfl⟩,
    _, checkCompute_eq (k := .crc) hx, rfl, readByte_finish_setOut s (bs := chk .crc xs) 0 Nat.two_pos,
    readByte_finish_setOut s (bs := chk .crc xs) 1 Nat.one_lt_two, rfl, rfl⟩

/-! ### VERIFY -/

theorem checkVerify_short {k : ChkKind} {s : State} (h : s.inLen.toNat < checkLen k) :
    checkVerify k s = .next (raise .short s) := if_pos h

/-- R153: an input that ends in as many bytes as the check value has is split there. -/
theorem checkVerify_eq {k : ChkKind} {s : State} {body cs : List Byte} (h : inputBytes s = some (body ++ cs))
    (hcs : cs.length = checkLen k) : checkVerify k s = .next (setRes .ok (verify k body cs) s) := by
  have hlen : s.inLen.toNat = body.length + checkLen k := by rw [← inputBytes_length h, List.length_append, hcs]
  rw [checkVerify, if_neg (by omega)]
  exact withInput_next.mpr ⟨_, h, by simp [verifyInput, hlen]⟩

theorem verify_crc_eq (xs : List Byte) (c d : Byte) :
    verify .crc xs [c, d] = decide (c = lo8 (crc16 xs) ∧ d = hi8 (crc16 xs)) := by
  simp [verify, chk]

/-- Settles O27: the short input refused, and the check bytes compared as `verify` compares them. -/
theorem verifyCommandsCompareTheCheckBytes : Obligations.VerifyCommandsCompareTheCheckBytes := by
  refine fun s => ⟨checkVerify_short (k := .bcc), checkVerify_short (k := .crc), fun body c h => ?bcc, fun body c d h => ?crc⟩
  case bcc => rw [← verify_bcc_eq]; exact checkVerify_eq (k := .bcc) h rfl
  case crc => rw [← lo8, ← hi8, ← verify_crc_eq]; exact checkVerify_eq (k := .crc) h rfl

end Sys2Proof.Machine
end

section
/-! The frame codec (42_frame_codec.md): the layout of a frame (R170, R172), the decoder by the start of its buffer and by the end
of its scan (R175, R176), that it inverts the encoder and is resumable (R177, R179), a kind mismatch (R180), and the commands
ENCODE (R171) and DECODE (R178). -/

namespace Sys2Proof.Machine

/-! ### The encoder -/

theorem encodeFrame_tooLong {m : Nat} {src dst : Byte} {body : List Byte} {k : ChkKind} (h : m < body.length + 2) :
    encodeFrame m src dst body k = none := if_pos h

/-- R93: the frame as bytes, with what follows it. -/
theorem frameOf_append (k : ChkKind) (xs e : List Byte) :
    frameOf k xs ++ e = dle :: stx :: (stuff xs ++ dle :: etx :: (chk k xs ++ e)) := by simp [frameOf]

/-- The check bytes follow the stuffed interior and the two delimiters. -/
theorem length_frameOf_scanned (k : ChkKind) (xs : List Byte) :
    (frameOf k xs).length = (stuff xs).length + 4 + checkLen k := by
  rw [length_frameOf, Nat.add_comm 4]

/-- Settles O28: the layout is `frameOf`'s own, its length that of the stuffed interior. -/
theorem encodedFrameLayoutAndLength : Obligations.EncodedFrameLayoutAndLength := by
  refine fun m src dst body k => ⟨encodeFrame_tooLong, fun h => ⟨_, encodeFrame_eq_some.mpr ⟨h, rfl⟩, rfl, ?length, ?bound⟩⟩
  case length =>
    have hlen : (frameOf k (dst :: src :: body)).length = 6 + body.length + (dst :: src :: body).count dle + checkLen k := by
      rw [length_frameOf, length_stuff, List.length_cons, List.length_cons]; omega
    cases k <;> exact hlen
  case bound => exact (length_frameOf_le k _).trans (by simp only [List.length_cons]; omega)

/-! ### The decoder, by the start of the buffer -/

/-- R175: what the buffer of a decode starts with. -/
theorem frameStart_cases {motive : List Byte → Prop} (nil : motive []) (lone : motive [dle])
    (badFirst : ∀ c e, c ≠ dle → motive (c :: e)) (badSecond : ∀ c e, c ≠ stx → motive (dle :: c :: e))
    (started : ∀ ys, motive (dle :: stx :: ys)) : ∀ b, motive b
  | [] => nil
  | [c] => if hc : c = dle then hc ▸ lone else badFirst c [] hc
  | c :: d :: ys => by
    by_cases hc : c = dle
    · subst hc
      by_cases hd : d = stx
      · subst hd; exact started ys
      · exact badSecond d ys hd
    · exact badFirst c _ hc

/-- R175: the result of a decode whose scan ends so. -/
def decodedOfScan (k : ChkKind) : Scan → Decoded
  | .incomplete => .incomplete
  | .malformed used => .malformed used
  | .complete i interior rest => checkFrame k i interior rest

theorem decodeFrame_badFirst (m : Nat) (k : ChkKind) {c : Byte} (e : List Byte) (h : c ≠ dle) :
    decodeFrame m k (c :: e) = .malformed 1 := by
  cases e <;> exact if_neg h

theorem decodeFrame_badSecond (m : Nat) (k : ChkKind) {c : Byte} (e : List Byte) (h : c ≠ stx) :
    decodeFrame m k (dle :: c :: e) = .malformed 2 := by
  simp [decodeFrame, h]

theorem decodeFrame_started (m : Nat) (k : ChkKind) (ys : List Byte) :
    decodeFrame m k (dle :: stx :: ys) = decodedOfScan k (scan m ys 2 []) := rfl

/-! ### The end of the scan and the check bytes -/

theorem checkFrame_of_missing {k : ChkKind} (i : Nat) (interior : List Byte) {rest : List Byte}
    (h : rest.length < checkLen k) : checkFrame k i interior rest = .incomplete := if_pos h

theorem checkLen_le_of_checkFrame_ne {k : ChkKind} {i : Nat} {interior rest : List Byte}
    (h : checkFrame k i interior rest ≠ .incomplete) : checkLen k ≤ rest.length :=
  Nat.le_of_not_lt (mt (checkFrame_of_missing i interior) h)

section
variable {k : ChkKind} {cs : List Byte} (i : Nat) (e : List Byte) (hcs : cs.length = checkLen k)
include hcs

/-- R175: a frame without both address bytes. -/
theorem checkFrame_short {xs : List Byte} (h : xs.length < 2) :
    checkFrame k i xs (cs ++ e) = .malformed (i + checkLen k) := by
  have hthere : ¬(cs ++ e).length < checkLen k := by simp [hcs]
  match xs, h with
  | [], _ => exact if_neg hthere
  | [_], _ => exact if_neg hthere

/-- R175: the check bytes of a frame with its two address bytes are compared. -/
theorem checkFrame_addressed (dst src : Byte) (body : List Byte) : checkFrame k i (dst :: src :: body) (cs ++ e) =
    if cs = chk k (dst :: src :: body) then .ok (i + checkLen k) dst src body else .checksum (i + checkLen k) := by
  have hthere : ¬(cs ++ e).length < checkLen k := by simp [hcs]
  rw [checkFrame, if_neg hthere, List.take_left' hcs]

end

/-- R176: once the check bytes are there, the whole frame is consumed. -/
theorem checkFrame_used {k : ChkKind} (i : Nat) (interior : List Byte) {rest : List Byte} (h : checkLen k ≤ rest.length) :
    (checkFrame k i interior rest).used = i + checkLen k := by
  have hcs : (rest.take (checkLen k)).length = checkLen k := by simp [h]
  rw [← List.take_append_drop (checkLen k) rest]
  match interior with
  | [] => rw [checkFrame_short i _ hcs (by decide)]; rfl
  | [_] => rw [checkFrame_short i _ hcs (by simp)]; rfl
  | dst :: src :: body => rw [checkFrame_addressed i _ hcs]; split <;> rfl

/-- R175: OK is given where the bytes after the end delimiter begin with the interior's check value. -/
theorem checkFrame_ok_parts {k : ChkKind} {i used : Nat} {interior rest body : List Byte} {dst src : Byte}
    (h : checkFrame k i interior rest = .ok used dst src body) :
    interior = dst :: src :: body ∧ used = i + checkLen k ∧ ∃ e, rest = chk k interior ++ e := by
  obtain rfl := checkFrame_ok h
  have hthere : checkLen k ≤ rest.length := checkLen_le_of_checkFrame_ne (by rw [h]; nofun)
  have hcs : (rest.take (checkLen k)).length = checkLen k := by simp [hthere]
  rw [← List.take_append_drop (checkLen k) rest, checkFrame_addressed i _ hcs] at h
  split at h
  · next hchk => cases h; exact ⟨rfl, rfl, rest.drop (checkLen k), by rw [← hchk, List.take_append_drop]⟩
  · cases h

/-- R177: the check bytes once there, what follows them is not looked at. -/
theorem checkFrame_append {k : ChkKind} {i : Nat} {interior rest : List Byte} (e : List Byte)
    (h : checkFrame k i interior rest ≠ .incomplete) : checkFrame k i interior (rest ++ e) = checkFrame k i interior rest := by
  have hthere := checkLen_le_of_checkFrame_ne h
  have hlonger : ¬(rest ++ e).length < checkLen k := by simp; omega
  simp only [checkFrame, if_neg hlonger, if_neg (Nat.not_lt_of_le hthere), List.take_append_of_le_length hthere]

/-! ### The decoder over stuffed bytes -/

theorem stuff_append (xs ys : List Byte) : stuff (xs ++ ys) = stuff xs ++ stuff ys := by
  simp only [stuff_eq_flatMap, List.flatMap_append]

/-- A scan takes in stuffed bytes up to MAX_INTERIOR, whatever follows them. -/
theorem scan_stuff_append {m : Nat} {xs : List Byte} (ys : List Byte) : ∀ {i : Nat} {acc : List Byte},
    acc.length + xs.length ≤ m → scan m (stuff xs ++ ys) i acc = scan m ys (i + (stuff xs).length) (acc ++ xs) := by
  induction xs with
  | nil => simp
  | cons b xs ih =>
    intro i acc h
    rw [List.length_cons] at h
    have hstep : ∀ j, scan m (stuff xs ++ ys) j (acc ++ [b]) = scan m ys (j + (stuff xs).length) (acc ++ b :: xs) :=
      fun j => by rw [ih (by simp; omega), List.append_assoc]; rfl
    by_cases hb : b = dle
    · subst hb
      rw [stuff_cons_dle, List.cons_append, List.cons_append, scan_dle_dle, if_neg (by omega), hstep]
      congr 1; simp; omega
    · rw [stuff_cons_other xs hb, List.cons_append, scan_other m _ _ _ hb, if_neg (by omega), hstep]
      congr 1; simp; omega

/-- R175: the interior byte beyond MAX_INTERIOR ends the scan. -/
theorem scan_full {m : Nat} {acc : List Byte} (c : Byte) (e : List Byte) (i : Nat) (h : acc.length = m) :
    scan m (stuff [c] ++ e) i acc = .malformed (i + (stuff [c]).length) := by
  have hfull : m < acc.length + 1 := by omega
  by_cases hc : c = dle
  · subst hc; exact (scan_dle_dle m e i acc).trans (if_pos hfull)
  · rw [stuff_cons_other [] hc]; exact (scan_other m e i acc hc).trans (if_pos hfull)

/-- A scan that finds the end delimiter has read a stuffed sequence and that delimiter. -/
theorem scan_complete {m : Nat} {ys : List Byte} : ∀ {i j : Nat} {acc interior rest : List Byte},
    scan m ys i acc = .complete j interior rest →
    ∃ xs, interior = acc ++ xs ∧ ys = stuff xs ++ dle :: etx :: rest ∧ j = i + (stuff xs).length + 2 := by
  induction ys using scan_induction with
  | nil => exact fun h => nomatch h
  | lone => exact fun h => nomatch h
  | doubled ys ih =>
    intro i j acc interior rest h
    rw [scan_dle_dle] at h
    split at h
    · cases h
    · obtain ⟨xs, rfl, rfl, rfl⟩ := ih h
      exact ⟨dle :: xs, by simp, by simp, by simp; omega⟩
  | delim ys =>
    intro i j acc interior rest h
    cases (scan_dle_etx m ys i acc).symm.trans h
    exact ⟨[], by simp, rfl, rfl⟩
  | unpaired c ys hc he => exact fun h => nomatch (scan_dle_other m ys _ _ hc he).symm.trans h
  | other b ys hb ih =>
    intro i j acc interior rest h
    rw [scan_other m ys i acc hb] at h
    split at h
    · cases h
    · obtain ⟨xs, rfl, rfl, rfl⟩ := ih h
      exact ⟨b :: xs, by simp, by simp [stuff_cons_other xs hb], by simp [stuff_cons_other xs hb]; omega⟩

section
variable {m : Nat} (k : ChkKind) {xs : List Byte} (hxs : xs.length ≤ m)
include hxs

/-- After stuffed bytes within MAX_INTERIOR the scan decides on what follows. -/
theorem decodeFrame_stuffed (ys : List Byte) : decodeFrame m k (dle :: stx :: (stuff xs ++ ys)) =
    decodedOfScan k (scan m ys ((stuff xs).length + 2) xs) := by
  rw [decodeFrame_started, scan_stuff_append ys (by simpa using hxs), List.nil_append, Nat.add_comm]

/-- After an interior and the end delimiter the check bytes decide. -/
theorem decodeFrame_delimited (rest : List Byte) : decodeFrame m k (dle :: stx :: (stuff xs ++ dle :: etx :: rest)) =
    checkFrame k ((stuff xs).length + 4) xs rest := by
  rw [decodeFrame_stuffed k hxs, scan_dle_etx, decodedOfScan]

/-- The frame of either kind, and what follows it, decoded with either kind. -/
theorem decodeFrame_frameOf (k' : ChkKind) (e : List Byte) : decodeFrame m k (frameOf k' xs ++ e) =
    checkFrame k ((stuff xs).length + 4) xs (chk k' xs ++ e) := by
  rw [frameOf_append, decodeFrame_delimited k hxs]

end

/-- Settles O29: the decoder finds the interior and, after it, its own check value. -/
theorem decodeOfEncodedFrame : Obligations.DecodeOfEncodedFrame := by
  intro m src dst body f e k hf
  obtain ⟨hm, rfl⟩ := encodeFrame_eq_some.mp hf
  rw [decodeFrame_frameOf k hm, checkFrame_addressed _ e (length_chk k _), if_pos rfl, length_frameOf_scanned]

/-! ### Resumption -/

/-- R177: a decode that has ended does not depend on what follows. -/
theorem decodeFrame_append {m : Nat} {k : ChkKind} {b : List Byte} (e : List Byte) (h : decodeFrame m k b ≠ .incomplete) :
    decodeFrame m k (b ++ e) = decodeFrame m k b := by
  cases b using frameStart_cases with
  | nil => exact absurd rfl h
  | lone => exact absurd rfl h
  | badFirst c ys hc => rw [List.cons_append, decodeFrame_badFirst m k _ hc, decodeFrame_badFirst m k _ hc]
  | badSecond c ys hc =>
    rw [List.cons_append, List.cons_append, decodeFrame_badSecond m k _ hc, decodeFrame_badSecond m k _ hc]
  | started ys =>
    rw [decodeFrame_started] at h
    rw [List.cons_append, List.cons_append, decodeFrame_started, decodeFrame_started]
    have hscan := scan_append m ys e 2 []
    cases hs : scan m ys 2 [] with
    | incomplete => rw [hs] at h; exact absurd rfl h
    | malformed used => simp only [hs] at hscan; rw [hscan]
    | complete i interior rest =>
      simp only [hs] at hscan h
      rw [hscan]
      exact checkFrame_append e h

/-- Settles O30: an incomplete frame is shorter than the longest, so that any bytes up to that length end it. -/
theorem decodingIsResumable : Obligations.DecodingIsResumable := by
  refine fun m k b => ⟨fun h e => decodeFrame_append e h, fun _ => ⟨List.replicate (2 * m + 6) 0, fun h => ?_⟩⟩
  have hlen := decodeFrame_incomplete_length h
  rw [List.length_append, List.length_replicate] at hlen
  omega

/-! ### The consumed bytes -/

/-- R176: a decode that is not INCOMPLETE consumes a byte, and only bytes of the buffer. -/
theorem decodeFrame_used (m : Nat) (k : ChkKind) (b : List Byte) : decodeFrame m k b = .incomplete ∨
    (0 < (decodeFrame m k b).used ∧ (decodeFrame m k b).used ≤ b.length) := by
  cases b using frameStart_cases with
  | nil => exact .inl rfl
  | lone => exact .inl rfl
  | badFirst c ys hc => rw [decodeFrame_badFirst m k _ hc]; exact .inr (by simp [Decoded.used])
  | badSecond c ys hc => rw [decodeFrame_badSecond m k _ hc]; exact .inr (by simp [Decoded.used])
  | started ys =>
    rw [decodeFrame_started, List.length_cons, List.length_cons]
    have hscan := scan_spec m ys 2 [] (Nat.zero_le m)
    cases hs : scan m ys 2 [] with
    | incomplete => exact .inl rfl
    | malformed used =>
      simp only [hs] at hscan
      exact .inr (by simp only [decodedOfScan, Decoded.used]; omega)
    | complete i interior rest =>
      simp only [hs] at hscan
      by_cases hrest : rest.length < checkLen k
      · exact .inl (checkFrame_of_missing i _ hrest)
      · exact .inr (by rw [decodedOfScan, checkFrame_used i _ (Nat.le_of_not_lt hrest)]; omega)

theorem decodeFrame_used_le (m : Nat) (k : ChkKind) (b : List Byte) : (decodeFrame m k b).used ≤ b.length := by
  rcases decodeFrame_used m k b with h | ⟨-, h⟩
  · rw [h]; exact Nat.zero_le _
  · exact h

theorem decodeFrame_used_eq_zero (m : Nat) (k : ChkKind) (b : List Byte) :
    (decodeFrame m k b).used = 0 ↔ decodeFrame m k b = .incomplete := by
  refine ⟨fun h0 => ?_, fun h => by rw [h]; rfl⟩
  rcases decodeFrame_used m k b with h | ⟨hpos, -⟩
  · exact h
  · omega

/-- The converse of R179: what a decode that is OK consumes is the frame of its result. -/
theorem encodeFrame_of_decodeFrame_ok {m used : Nat} {k : ChkKind} {b body : List Byte} {dst src : Byte}
    (h : decodeFrame m k b = .ok used dst src body) : encodeFrame m src dst body k = some (b.take used) := by
  refine encodeFrame_eq_some.mpr ⟨decodeFrame_ok_length h, ?_⟩
  rcases decodeFrame_cases m k b with ⟨-, hd⟩ | ⟨_, hd⟩ | ⟨ys, rfl, ⟨-, hd⟩ | ⟨i, interior, rest, hs, hd⟩⟩
  case' inr.inr.inr =>
    obtain ⟨xs, hxs, rfl, rfl⟩ := scan_complete hs
    obtain ⟨rfl, rfl, e, rfl⟩ := checkFrame_ok_parts (hd.symm.trans h)
    obtain rfl : dst :: src :: body = xs := hxs
    rw [← frameOf_append, List.take_left' (by rw [length_frameOf]; omega)]
  all_goals cases hd.symm.trans h

/-- Settles O31: the bounds by `decodeFrame_used`, each MALFORMED and CHECKSUM case by what follows the stuffed bytes. -/
theorem consumedBytesAreInTheBuffer : Obligations.ConsumedBytesAreInTheBuffer := by
  refine fun m k => ⟨fun b => ⟨decodeFrame_used_le m k b, decodeFrame_used_eq_zero m k b, decodeFrame_incomplete_length⟩,
    fun c e => decodeFrame_badFirst m k e, fun c e => decodeFrame_badSecond m k e, fun xs e c hm hc he => ?unpaired,
    fun xs e c hm => ?overlong, fun xs cs e h2 hm hcs => ?short, fun xs cs e h2 hm hcs hne => ?checksum,
    fun b body used dst src => encodeFrame_of_decodeFrame_ok⟩
  case unpaired =>
    have hd := decodeFrame_stuffed k hm (dle :: c :: e)
    rw [scan_dle_other m e _ xs hc he] at hd
    simpa [decodedOfScan, dle, stx] using hd
  case overlong =>
    have hd := decodeFrame_stuffed k hm.le (stuff [c] ++ e)
    rw [scan_full c e _ hm, Nat.add_right_comm] at hd
    simpa [decodedOfScan, stuff_append, dle, stx] using hd
  case short =>
    have hd := decodeFrame_delimited k hm (cs ++ e)
    rw [checkFrame_short _ e hcs h2] at hd
    simpa [dle, stx, etx] using hd
  case checksum =>
    obtain ⟨dst, src, body, rfl⟩ : ∃ dst src body, xs = dst :: src :: body := by
      match xs, h2 with
      | dst :: src :: body, _ => exact ⟨dst, src, body, rfl⟩
    have hd := decodeFrame_delimited k hm (cs ++ e)
    rw [checkFrame_addressed _ e hcs, if_neg hne] at hd
    simpa [dle, stx, etx] using hd

/-! ### The wrong kind -/

/-- Settles O32: a frame of either kind has its interior at the same place, so that a decode of the other kind only takes another
number of check bytes: the BCC with the byte after it, or the CRC's low byte. -/
theorem kindMismatch : Obligations.KindMismatch := by
  refine fun m src dst body f => ⟨fun hf => ?bcc, fun hf => ?crc⟩
  all_goals
    obtain ⟨hm, rfl⟩ := encodeFrame_eq_some.mp hf
    rw [length_frameOf_scanned]
  case bcc =>
    refine ⟨?alone, fun x e => ?followed⟩
    case alone =>
      rw [← List.append_nil (frameOf _ _), decodeFrame_frameOf .crc hm]
      exact checkFrame_of_missing _ _ Nat.one_lt_two
    case followed =>
      rw [decodeFrame_frameOf .crc hm]
      exact checkFrame_addressed (k := .crc) (cs := [bcc (dst :: src :: body), x]) _ e rfl dst src body
  case crc =>
    rw [← List.append_nil (frameOf _ _), decodeFrame_frameOf .bcc hm, ← lo8]
    have hlow := checkFrame_addressed (k := .bcc) (cs := [lo8 (crc16 (dst :: src :: body))])
      ((stuff (dst :: src :: body)).length + 4) [hi8 (crc16 (dst :: src :: body))] rfl dst src body
    simp only [chk, List.cons.injEq, and_true] at hlow
    exact hlow

/-! ### ENCODE and DECODE -/

theorem encodeCommand_tooLong {k : ChkKind} {s : State} (h : s.params.maxInterior < s.inLen.toNat + 2) :
    encodeCommand k s = .next { s with outLen := 0, resCode := .tooLong, resVok := false } := if_pos h

/-- R171: the body is as long as IN_LEN says, so that ENCODE's two length checks agree. -/
theorem encodeCommand_eq {k : ChkKind} {s : State} {body f : List Byte} (hx : inputBytes s = some body)
    (hf : encodeFrame s.params.maxInterior s.addrSrc s.addrDst body k = some f) :
    encodeCommand k s = .next (finish (setOut f s)) := by
  obtain ⟨hm, -⟩ := encodeFrame_eq_some.mp hf
  rw [inputBytes_length hx] at hm
  rw [encodeCommand, if_neg (Nat.not_lt_of_le hm)]
  exact withInput_next.mpr ⟨body, hx, by simp only [encodeInput, hf]⟩

/-- Settles O33: the refusal by the length check, and the frame read back from OUT_BUF. -/
theorem encodeCommandsWriteTheFrame : Obligations.EncodeCommandsWriteTheFrame := by
  intro s k _
  have hexec : exec (match k with | .bcc => .encodeBcc | .crc => .encodeCrc) s = encodeCommand k s := by cases k <;> rfl
  refine ⟨fun hl => hexec.trans (encodeCommand_tooLong hl), fun body hl hx => ?written⟩
  case written =>
    obtain ⟨f, hf⟩ : ∃ f, encodeFrame s.params.maxInterior s.addrSrc s.addrDst body k = some f :=
      ⟨_, encodeFrame_eq_some.mpr ⟨inputBytes_length hx ▸ hl, rfl⟩⟩
    exact ⟨_, f, hexec.trans (encodeCommand_eq hx hf), hf, BitVec.toNat_ofNat _ 16,
      readBytes_writeBytes_same s.mem 0x20000 f, rfl, rfl⟩

theorem decodeCommandFrame_eq {k : ChkKind} {s : State} {buf : List Byte} (h : inputBytes s = some buf) :
    decodeCommandFrame k s = .next (decodeInput k s buf) :=
  withInput_next.mpr ⟨buf, h, rfl⟩

/-- R178: DECODE reports the consumed count, whatever the result. -/
theorem decodeInput_decConsumed (k : ChkKind) (s : State) (buf : List Byte) :
    (decodeInput k s buf).decConsumed = BitVec.ofNat 16 (decodeFrame s.params.maxInterior k buf).used := by
  cases hd : decodeFrame s.params.maxInterior k buf <;> simp only [decodeInput, hd] <;> rfl

theorem decodeInput_resVok (k : ChkKind) (s : State) (buf : List Byte) : (decodeInput k s buf).resVok = false := by
  cases hd : decodeFrame s.params.maxInterior k buf <;> simp only [decodeInput, hd] <;> rfl

/-- Settles O34: CONSUMED lies in the buffer and the body within MAX_INTERIOR, so that both fit their fields. -/
theorem decodeCommandsReportTheFrame : Obligations.DecodeCommandsReportTheFrame := by
  intro s k buf hs hx
  have hexec : exec (match k with | .bcc => .decodeBcc | .crc => .decodeCrc) s = decodeCommandFrame k s := by cases k <;> rfl
  obtain ⟨-, hmax, hbuf⟩ := hs.legal
  have hused := decodeFrame_used_le s.params.maxInterior k buf
  have hin := inputBytes_length_le hs hx
  refine ⟨_, hexec.trans (decodeCommandFrame_eq hx), decodeInput_resVok k s buf, ?consumed, ?result⟩
  case consumed => rw [decodeInput_decConsumed, BitVec.toNat_ofNat, Nat.mod_eq_of_lt (by omega)]
  case result =>
    cases hd : decodeFrame s.params.maxInterior k buf with
    | ok used dst src body =>
      have hbody := decodeFrame_ok_length hd
      obtain ⟨hlen, hread, -, -⟩ := finish_setOut_output s (bs := body) (by omega)
      simp only [decodeInput, hd]
      exact ⟨rfl, rfl, rfl, hlen, hread⟩
    | incomplete | malformed | checksum =>
      simp only [decodeInput, hd]
      exact ⟨rfl, rfl, rfl, rfl, fun _ => rfl⟩

end Sys2Proof.Machine
end

section
/-! What a TICK (R215) and a received byte (R218, R219, R226) do in each wait, one equation per case, and the statements that
are these equations (R200 to R232). -/

namespace Sys2Proof.Machine

theorem exec_tick (s : State) : exec .tick s = .next (tickState s) := rfl

theorem exec_rx (b : Byte) (s : State) : exec (.rx b) s = .next (receive b s) := rfl

/-! ### Failed attempts and the TICK -/

/-- R210: a failed attempt is retried or it was the last. -/
theorem failAttempt_cases (stage : Stage) (s : State) :
    (s.retryCount < s.maxRetries ∧ failAttempt stage s = { s with
      rx := [], retryCount := s.retryCount + 1, tmState := .awaitAck, timer := s.ackTo, txs := s.txs ++ s.txFrame }) ∨
    (¬s.retryCount < s.maxRetries ∧
      failAttempt stage s = { s with rx := [], tmState := .failed, timer := 0, fail := stage.reason }) := by
  by_cases h : s.retryCount < s.maxRetries
  · exact .inl ⟨h, failAttempt_retry h⟩
  · exact .inr ⟨h, failAttempt_exhausted h⟩

/-- R232. -/
theorem tickState_resting {s : State} (h : awaiting s = false) : tickState s = s := by
  rcases tickState_cases s with ⟨-, he⟩ | ⟨hw, -⟩ | ⟨hw, -⟩
  · exact he
  all_goals cases h.symm.trans hw

/-- R215: the wait goes on. -/
theorem tickState_running {s : State} (hw : awaiting s = true) (h : 2 ≤ s.timer.toNat) :
    tickState s = { s with timer := s.timer - 1 } := by
  rcases tickState_cases s with ⟨hf, -⟩ | ⟨-, -, he⟩ | ⟨-, h0, -⟩
  · cases hf.symm.trans hw
  · exact he
  · bv_omega

/-- R215: the wait is over. -/
theorem tickState_expired {s : State} (hw : awaiting s = true) (h : s.timer = 1) :
    tickState s = failAttempt (waitStage s) s := by
  rcases tickState_cases s with ⟨hf, -⟩ | ⟨-, h0, -⟩ | ⟨-, -, he⟩
  · cases hf.symm.trans hw
  · exact absurd (by rw [h]; rfl) h0
  · exact he

theorem waitStage_reason (s : State) :
    (waitStage s).reason = if s.tmState = .awaitAck then .noAck else .noReply := by
  unfold waitStage; split <;> rfl

theorem awaiting_eq_false_of_ne {s : State} (ha : s.tmState ≠ .awaitAck) (hr : s.tmState ≠ .awaitReply) :
    awaiting s = false := by
  simp [awaiting, ha, hr]

/-- Settles O42: `tickState` by the timer, and at its end the two cases of `failAttempt`. -/
theorem tickCountsDownAndFailsTheAttempt : Obligations.TickCountsDownAndFailsTheAttempt := by
  intro s
  rw [exec_tick]
  refine ⟨fun ha hr => ?rest, fun hs => ?wait⟩
  case rest => rw [tickState_resting (awaiting_eq_false_of_ne ha hr)]
  case wait =>
    have hw := awaiting_iff.mpr hs
    refine ⟨fun h => ?running, fun h hlt => ?retry, fun h hle => ?last⟩
    case running => rw [tickState_running hw h]
    case retry => rw [tickState_expired hw h, failAttempt_retry hlt]
    case last => rw [tickState_expired hw h, failAttempt_exhausted (Nat.not_lt.mpr hle), waitStage_reason]

/-- Settles O48. -/
theorem bytesAndTicksOutsideAWaitAreIgnored : Obligations.BytesAndTicksOutsideAWaitAreIgnored := by
  intro s b hs
  have hw := awaiting_eq_false.mpr hs
  rw [exec_rx, exec_tick, receive_resting b hw, tickState_resting hw]
  exact ⟨rfl, rfl⟩

/-! ### A byte in AWAIT_ACK -/

/-- R219: the ACK. -/
theorem receive_acked {s : State} (hs : s.tmState = .awaitAck) (hr : s.rx = []) :
    receive ack s = { s with tmState := .awaitReply, timer := s.replyTo } := by
  rw [receive_awaitAck ack hs hr, ackStep, if_pos rfl, ← hr]

/-- R219: any other byte. -/
theorem receive_unacked {s : State} {b : Byte} (hs : s.tmState = .awaitAck) (hr : s.rx = []) (hb : b ≠ ack) :
    receive b s = failAttempt .ack s := by
  rw [receive_awaitAck b hs hr, ackStep, if_neg hb]
  exact failAttempt_ignores .ack s [b] s.timer

/-- Settles O43: the ACK step, and the two cases of `failAttempt`, which finds `rx` empty. -/
theorem byteInAckWait : Obligations.ByteInAckWait := by
  intro s b hs hr
  rw [exec_rx]
  refine ⟨fun hb => ?acked, fun hb hlt => ?retry, fun hb hle => ?last⟩
  case acked => rw [show b = ack from hb, receive_acked hs hr]
  case retry => rw [receive_unacked hs hr hb, failAttempt_retry hlt, hs, hr]
  case last => rw [receive_unacked hs hr hb, failAttempt_exhausted (Nat.not_lt.mpr hle), hr]; rfl

/-! ### A byte in AWAIT_REPLY -/

/-- R226: the first round of the loop on a byte received in AWAIT_REPLY. -/
theorem receive_awaitReply {s : State} {b h : Byte} {rest : List Byte} (hs : s.tmState = .awaitReply)
    (hr : s.rx ++ [b] = h :: rest) : receive b s =
      match replyStep h rest { s with rx := s.rx ++ [b] } with
      | .goOn t => processRx s.rx.length t
      | .stop t => t := by
  rw [receive_awaiting b (awaiting_iff.mpr (.inr hs))]
  cases hp : replyStep h rest { s with rx := s.rx ++ [b] } with
  | goOn t => exact processRx_continue hr hs hp
  | stop t => exact processRx_stop hr hs hp

/-- R226: a handshake byte between frames. -/
theorem receive_handshake {s : State} {b : Byte} (hs : s.tmState = .awaitReply) (hr : s.rx = [])
    (hb : isHandshake b = true) : receive b s = s := by
  rw [receive_awaitReply hs (h := b) (rest := []) (by rw [hr]; rfl), replyStep, if_pos hb, ← hr]
  exact processRx_rest (.inl hr)

/-- A byte that R226 takes as the next of a frame: it follows a partial frame, or it is the first and no handshake byte. -/
structure InFrame (b : Byte) (s : State) : Prop where
  partialFrame : decodeFrame s.params.maxInterior s.chkKind s.rx = .incomplete
  notHandshake : s.rx = [] → isHandshake b = false

/-- R175: a buffer that begins with anything but a DLE decodes as MALFORMED. -/
theorem eq_dle_of_decodeFrame {m : Nat} {k : ChkKind} {c : Byte} {rest : List Byte}
    (hd : ∀ used, decodeFrame m k (c :: rest) ≠ .malformed used) : c = dle := by
  by_contra hne
  exact hd 1 (decodeFrame_badFirst m k rest hne)

/-- The head of `rx` in a round on a byte of a frame. -/
theorem InFrame.head {b : Byte} {s : State} (h : InFrame b s) :
    ∃ c rest, s.rx ++ [b] = c :: rest ∧ isHandshake c = false := by
  cases hr : s.rx with
  | nil => exact ⟨b, [], rfl, h.notHandshake hr⟩
  | cons c rest =>
    have hd := h.partialFrame
    rw [hr] at hd
    obtain rfl := eq_dle_of_decodeFrame (c := c) fun used hu => by cases hd.symm.trans hu
    exact ⟨dle, rest ++ [b], rfl, rfl⟩

/-- A byte with which `rx` does not decode as MALFORMED begins or continues a frame. -/
theorem inFrame_of_decodeFrame {s : State} {b : Byte} (hp : decodeFrame s.params.maxInterior s.chkKind s.rx = .incomplete)
    (hd : ∀ used, decodeFrame s.params.maxInterior s.chkKind (s.rx ++ [b]) ≠ .malformed used) : InFrame b s :=
  ⟨hp, fun hr => by rw [hr] at hd; rw [eq_dle_of_decodeFrame hd]; rfl⟩

/-- R177: the byte that ends a frame is its last, so that the frame leaves nothing of `rx`. -/
theorem drop_used_of_partialFrame {m used : Nat} {k : ChkKind} {bs body : List Byte} {b dst src : Byte}
    (hp : decodeFrame m k bs = .incomplete) (hd : decodeFrame m k (bs ++ [b]) = .ok used dst src body) :
    (bs ++ [b]).drop used = [] := by
  refine List.drop_eq_nil_of_le ?_
  by_contra hlt
  rw [List.length_append, List.length_singleton] at hlt
  have hframe := encodeFrame_of_decodeFrame_ok hd
  rw [List.take_append_of_le_length (by omega)] at hframe
  have hok := decodeOfEncodedFrame m src dst body _ (bs.drop used) k hframe
  rw [List.take_append_drop] at hok
  cases hp.symm.trans hok

/-- R226 to R231: what the next byte of a frame does, by what `rx` decodes to with it. -/
def frameByteEffect (b : Byte) (s : State) : Decoded → State
  | .incomplete => { s with rx := s.rx ++ [b] }
  | .malformed _ => failAttempt .reply s
  | .checksum _ => failAttempt .reply s
  | .ok _ dst src body =>
    if correlates body s then matchReply dst src body (transmit [ack] s)
    else { s with rx := [], txs := s.txs ++ [ack], staleSeen := true }

theorem receive_inFrame {s : State} {b : Byte} (hs : s.tmState = .awaitReply) (hb : InFrame b s) :
    receive b s = frameByteEffect b s (decodeFrame s.params.maxInterior s.chkKind (s.rx ++ [b])) := by
  obtain ⟨c, rest, hr, hc⟩ := hb.head
  rw [receive_awaitReply hs hr, replyStep, hc, if_neg Bool.false_ne_true]
  cases hd : decodeFrame s.params.maxInterior s.chkKind (s.rx ++ [b]) with
  | incomplete => rfl
  | malformed used => exact failAttempt_ignores .reply s _ s.timer
  | checksum used => exact failAttempt_ignores .reply s _ s.timer
  | ok used dst src body =>
    cases hcor : correlates body s with
    | true =>
      have haccept : acceptFrame used dst src body { s with rx := s.rx ++ [b] } = _ := if_pos hcor
      simp only [haccept, frameByteEffect, hcor]; rfl
    | false =>
      have haccept : acceptFrame used dst src body { s with rx := s.rx ++ [b] } = _ := if_neg (Bool.eq_false_iff.mp hcor)
      simp only [haccept, frameByteEffect, hcor, drop_used_of_partialFrame hb.partialFrame hd]
      exact processRx_rest (.inl rfl)

/-- Settles O44: a partial frame is one that its next byte leaves partial. -/
theorem handshakeAndPartialFrameInReplyWait : Obligations.HandshakeAndPartialFrameInReplyWait := by
  intro s b hs
  rw [exec_rx]
  refine ⟨fun hr hb => ?handshake, fun hd => ?partialFrame⟩
  case handshake => rw [receive_handshake hs hr (isHandshake_iff.mpr hb)]
  case partialFrame =>
    have hp : decodeFrame s.params.maxInterior s.chkKind s.rx = .incomplete := by
      by_contra hne
      exact hne ((decodeFrame_append [b] hne).symm.trans hd)
    rw [receive_inFrame hs (inFrame_of_decodeFrame hp (by rw [hd]; nofun)), hd, frameByteEffect]

/-- Settles O45: the attempt fails, and is retried or was the last. -/
theorem badReplyFailsTheAttempt : Obligations.BadReplyFailsTheAttempt := by
  intro s b used h hs hb hd
  have hbad : receive b s = failAttempt .reply s := by
    have hframe : InFrame b s := ⟨h.replyWait hs, fun hr => by
      rw [← Bool.not_eq_true, isHandshake_iff, not_or, not_or]; exact hb hr⟩
    rw [receive_inFrame hs hframe]
    rcases hd with hd | hd <;> rw [hd, frameByteEffect]
  rw [exec_rx, hbad]
  exact ⟨fun hlt => by rw [failAttempt_retry hlt], fun hle => by rw [failAttempt_exhausted (Nat.not_lt.mpr hle)]; rfl⟩

/-- R228, R229: the byte that ends a checksum-valid frame. -/
theorem receive_frame {s : State} {b dst src : Byte} {used : Nat} {body : List Byte} (h : Inv s)
    (hs : s.tmState = .awaitReply)
    (hd : decodeFrame s.params.maxInterior s.chkKind (s.rx ++ [b]) = .ok used dst src body) :
    receive b s = if correlates body s then matchReply dst src body (transmit [ack] s)
      else { s with rx := [], txs := s.txs ++ [ack], staleSeen := true } := by
  rw [receive_inFrame hs (inFrame_of_decodeFrame (h.replyWait hs) (by rw [hd]; nofun)), hd, frameByteEffect]

/-- R5: a decoded body's length fits a 16-bit register. -/
theorem toNat_bodyLength {s : State} {body : List Byte} (h : Inv s) (hb : body.length + 2 ≤ s.params.maxInterior) :
    (BitVec.ofNat 16 body.length).toNat = body.length := by
  obtain ⟨-, hm, hbuf⟩ := h.legal
  rw [BitVec.toNat_ofNat, Nat.mod_eq_of_lt (by omega)]

/-- R44: what a match leaves of the memory. -/
theorem sameBytesOutside_matchReply (dst src : Byte) (body : List Byte) (s : State) :
    SameBytesOutside 0x30000 body.length s (matchReply dst src body s) :=
  readByte_writeBytes_outside body s.mem 0x30000

/-- Settles O46: the next state is `matchReply`'s, after the ACK. -/
theorem correlatingReplyMatches : Obligations.CorrelatingReplyMatches := by
  intro s b used dst src c0 c1 c2 c3 rest h hs hd htns
  have hcor : correlates (c0 :: c1 :: c2 :: c3 :: rest) s = true := correlates_iff.mpr ⟨by simp, htns⟩
  refine ⟨_, exec_rx b s, ?_⟩
  rw [receive_frame h hs hd, if_pos hcor]
  refine ⟨rfl, rfl, rfl, rfl, rfl, rfl, rfl, toNat_bodyLength h (decodeFrame_ok_length hd),
    readBytes_writeBytes_same s.mem 0x30000 (c0 :: c1 :: c2 :: c3 :: rest), ?memory,
    ?setup, ?results, rfl, rfl, rfl, rfl, rfl, rfl⟩
  case memory => exact sameBytesOutside_matchReply dst src (c0 :: c1 :: c2 :: c3 :: rest) (transmit [ack] s)
  case setup => constructor <;> rfl
  case results => exact ⟨rfl, rfl, rfl, rfl, rfl, rfl⟩

/-- Settles O47. -/
theorem staleReplyIsDiscarded : Obligations.StaleReplyIsDiscarded := by
  intro s b used dst src body h hs hd hstale
  have hcor : ¬correlates body s = true := by
    rw [correlates_iff, not_and_or, Nat.not_le]; exact hstale
  rw [exec_rx, receive_frame h hs hd, if_neg hcor]
  rfl

end Sys2Proof.Machine
end

section
/-! The commands of 43_transaction.md: CANCEL (R233), the refusals of SEND (R220), an accepted SEND (R222), and that the
codec commands neither read nor write the transaction (R237). -/

namespace Sys2Proof.Machine

/-! ### CANCEL and the refusals of SEND -/

/-- Settles O41: CANCEL is this update. -/
theorem cancelEndsTheTransaction : Obligations.CancelEndsTheTransaction := fun _ => rfl

theorem exec_send_refused {s : State} {e : ResCode} (h : sendRefusal s = some e) : exec .send s = .next (raise e s) := by
  simp only [exec, execSend, h]

theorem exec_send_accepted {s : State} {body : List Byte} (h : sendRefusal s = none)
    (hb : sendBody s.tnsNext s = some body) : exec .send s = .next (startTransaction body s) := by
  simp only [exec, execSend, h, hb]

/-- Settles O37: the checks of `sendRefusal`, one after the other. -/
theorem sendChecksInOrder : Obligations.SendChecksInOrder := by
  intro s busy legal
  have hbusy : busy ↔ awaiting s = true := awaiting_iff.symm
  have hlegal : legal ↔ cfgOk s = true := cfgOk_iff.symm
  rw [hbusy, hlegal, Bool.not_eq_true, Bool.not_eq_true]
  refine ⟨fun hw => exec_send_refused ?busy, fun hw hcfg => exec_send_refused ?config,
    fun hw hcfg h4 => exec_send_refused ?short, fun hw hcfg h4 hm => exec_send_refused ?tooLong⟩
  case busy => simp [sendRefusal, hw]
  case config => simp [sendRefusal, hw, hcfg]
  case short => simp [sendRefusal, hw, hcfg, h4]
  case tooLong => simp [sendRefusal, hw, hcfg, Nat.not_lt.mpr h4, hm]

/-! ### The body of an accepted SEND -/

/-- A part of the bytes read reads as that part. -/
theorem readBytes_part {m : Memory} {a n : Nat} {xs : List Byte} (h : readBytes m a n = some xs) {i j : Nat}
    (hij : i + j ≤ n) : readBytes m (a + i) j = some ((xs.drop i).take j) := by
  obtain ⟨hlen, hread⟩ := readBytes_eq_some.mp h
  have hpart : ((xs.drop i).take j).length = j := by rw [List.length_take, List.length_drop]; omega
  refine readBytes_eq_some.mpr ⟨hpart, fun k hk => ?_⟩
  rw [Nat.add_assoc, hread (i + k) (by omega), List.getElem_take, List.getElem_drop]

/-- Replacing bytes 2 and 3 leaves the two before and those after. -/
theorem set_two_three {α : Type} {xs : List α} (h : 4 ≤ xs.length) (b c : α) :
    (xs.set 2 b).set 3 c = xs.take 2 ++ [b, c] ++ xs.drop 4 := by
  match xs, h with
  | x :: y :: z :: w :: rest, _ => rfl

/-- R222: where the whole input has been written, the body is the input with the TNS in place. -/
theorem sendBody_of_inputBytes {s : State} {xs : List Byte} (tns : Half) (h : inputBytes s = some xs)
    (h4 : 4 ≤ s.inLen.toNat) : sendBody tns s = some ((xs.set 2 (lo8 tns)).set 3 (hi8 tns)) := by
  have hlen := inputBytes_length h
  have hheader : readBytes s.mem inBufBase 2 = some (xs.take 2) := readBytes_part h (i := 0) (by omega)
  have hrest := readBytes_part h (i := 4) (j := s.inLen.toNat - 4) (by omega)
  rw [List.take_of_length_le (by rw [List.length_drop, hlen])] at hrest
  rw [set_two_three (by omega), sendBody, hheader, hrest]

/-- Settles O38: the accepted SEND runs `startTransaction` on the input with the TNS in place. -/
theorem acceptedSendStartsATransaction : Obligations.AcceptedSendStartsATransaction := by
  intro s xs ha hr hcfg h4 hm hx
  have haccepted : sendRefusal s = none := sendRefusal_eq_none.mpr ⟨awaiting_eq_false_of_ne ha hr, hcfg, h4, hm⟩
  refine ⟨_, _, exec_send_accepted haccepted (sendBody_of_inputBytes s.tnsNext hx h4),
    encodeFrame_eq_some.mpr ⟨?length, rfl⟩, rfl⟩
  case length => rwa [List.length_set, List.length_set, inputBytes_length hx]

/-- A read depends on the bytes it reads alone. -/
theorem readBytes_congr {m m' : Memory} {n : Nat} : ∀ {a : Nat},
    (∀ b, a ≤ b → b < a + n → readByte m' b = readByte m b) → readBytes m' a n = readBytes m a n := by
  induction n with
  | zero => exact fun _ => rfl
  | succ n ih =>
    intro a h
    rw [readBytes, readBytes, h a le_rfl (by omega), ih fun b hlo hhi => h b (by omega) (by omega)]

/-- R222: the body of a SEND takes nothing from bytes 2 and 3 of IN_BUF. -/
theorem sendBody_ignores_tnsBytes (tns : Half) (s : State) (b c : Byte) :
    sendBody tns { s with mem := writeBytes s.mem 0x10002 [b, c] } = sendBody tns s := by
  have houtside : ∀ x, x < 0x10002 ∨ 0x10004 ≤ x → readByte (writeBytes s.mem 0x10002 [b, c]) x = readByte s.mem x :=
    readByte_writeBytes_outside [b, c] s.mem 0x10002
  have hheader : readBytes (writeBytes s.mem 0x10002 [b, c]) inBufBase 2 = readBytes s.mem inBufBase 2 :=
    readBytes_congr fun x _ hx => houtside x (.inl hx)
  have hrest : readBytes (writeBytes s.mem 0x10002 [b, c]) (inBufBase + 4) (s.inLen.toNat - 4) =
      readBytes s.mem (inBufBase + 4) (s.inLen.toNat - 4) :=
    readBytes_congr fun x hx _ => houtside x (.inr hx)
  simp only [sendBody, hheader, hrest]

/-- Settles O39: neither the checks nor the body of a SEND look at the two bytes. -/
theorem sendIgnoresTheHostsTnsBytes : Obligations.SendIgnoresTheHostsTnsBytes := by
  intro s b c haccepted t ht
  rcases send_next ht with ⟨e, hrefused, -⟩ | ⟨-, body, hbody, rfl⟩
  · cases haccepted.symm.trans hrefused
  · exact exec_send_accepted haccepted ((sendBody_ignores_tnsBytes s.tnsNext s b c).trans hbody)

/-! ### The codec commands and the transaction -/

/-- A change of the next state an outcome answers, where it answers one. -/
def mapNext (g : State → State) : Host.Outcome State Fault Refusal → Host.Outcome State Fault Refusal
  | .next t => .next (g t)
  | .fault f => .fault f
  | .refused r => .refused r

section
variable (k : ChkKind) (u s : State)

@[simp] theorem withTransactionOf_params : (withTransactionOf u s).params = s.params := rfl
@[simp] theorem withTransactionOf_inLen : (withTransactionOf u s).inLen = s.inLen := rfl
@[simp] theorem withTransactionOf_addrSrc : (withTransactionOf u s).addrSrc = s.addrSrc := rfl
@[simp] theorem withTransactionOf_addrDst : (withTransactionOf u s).addrDst = s.addrDst := rfl
@[simp] theorem withTransactionOf_inputBytes : inputBytes (withTransactionOf u s) = inputBytes s := rfl

/-- A command on its input, with another transaction in place. -/
theorem withInput_withTransactionOf {effect : State → List Byte → State}
    (he : ∀ xs, effect (withTransactionOf u s) xs = withTransactionOf u (effect s xs)) :
    withInput (withTransactionOf u s) (effect (withTransactionOf u s)) =
      mapNext (withTransactionOf u) (withInput s (effect s)) := by
  rw [withInput, withInput, withTransactionOf_inputBytes]
  cases inputBytes s with
  | none => rfl
  | some xs => exact congrArg _ (he xs)

theorem destuffInput_withTransactionOf (ys : List Byte) :
    destuffInput (withTransactionOf u s) ys = withTransactionOf u (destuffInput s ys) := by
  rw [destuffInput, destuffInput]
  cases destuff ys <;> rfl

theorem encodeInput_withTransactionOf (body : List Byte) :
    encodeInput k (withTransactionOf u s) body = withTransactionOf u (encodeInput k s body) := by
  rw [encodeInput, encodeInput, withTransactionOf_params, withTransactionOf_addrSrc, withTransactionOf_addrDst]
  cases encodeFrame s.params.maxInterior s.addrSrc s.addrDst body k <;> rfl

theorem decodeInput_withTransactionOf (buf : List Byte) :
    decodeInput k (withTransactionOf u s) buf = withTransactionOf u (decodeInput k s buf) := by
  rw [decodeInput, decodeInput, withTransactionOf_params]
  cases decodeFrame s.params.maxInterior k buf <;> rfl

theorem checkCompute_withTransactionOf :
    checkCompute k (withTransactionOf u s) = mapNext (withTransactionOf u) (checkCompute k s) :=
  withInput_withTransactionOf u s (effect := fun v xs => finish (setOut (chk k xs) v)) fun _ => rfl

theorem checkVerify_withTransactionOf :
    checkVerify k (withTransactionOf u s) = mapNext (withTransactionOf u) (checkVerify k s) := by
  rw [checkVerify, checkVerify, withTransactionOf_inLen]
  split
  · rfl
  · exact withInput_withTransactionOf u s (effect := verifyInput k) fun _ => rfl

theorem encodeCommand_withTransactionOf :
    encodeCommand k (withTransactionOf u s) = mapNext (withTransactionOf u) (encodeCommand k s) := by
  rw [encodeCommand, encodeCommand, withTransactionOf_inLen, withTransactionOf_params]
  split
  · rfl
  · exact withInput_withTransactionOf u s (encodeInput_withTransactionOf k u s)

end

/-- R237: a codec command on a state with another transaction in place. -/
theorem codec_withTransactionOf {i : Instr} (u s : State) (hc : isCodec i = true) :
    exec i (withTransactionOf u s) = mapNext (withTransactionOf u) (exec i s) := by
  cases i <;> simp only [isCodec, Bool.false_eq_true] at hc
  case stuff => exact withInput_withTransactionOf u s (effect := fun v xs => finish (setOut (stuff xs) v)) fun _ => rfl
  case destuff => exact withInput_withTransactionOf u s (destuffInput_withTransactionOf u s)
  case chkBcc => exact checkCompute_withTransactionOf .bcc u s
  case chkCrc => exact checkCompute_withTransactionOf .crc u s
  case verifyBcc => exact checkVerify_withTransactionOf .bcc u s
  case verifyCrc => exact checkVerify_withTransactionOf .crc u s
  case encodeBcc => exact encodeCommand_withTransactionOf .bcc u s
  case encodeCrc => exact encodeCommand_withTransactionOf .crc u s
  case decodeBcc => exact withInput_withTransactionOf u s (decodeInput_withTransactionOf .bcc u s)
  case decodeCrc => exact withInput_withTransactionOf u s (decodeInput_withTransactionOf .crc u s)

/-- Settles O36: the outcome commutes with putting another transaction in place, which the command leaves alone. -/
theorem codecCommandsIgnoreTheTransaction : Obligations.CodecCommandsIgnoreTheTransaction := by
  refine fun i u s hc => ⟨fun t ht => ⟨?next, codec_sameTransaction hc ht⟩, fun f hf => ?fault⟩
  case next => rw [codec_withTransactionOf u s hc, ht, mapNext]
  case fault => rw [codec_withTransactionOf u s hc, hf, mapNext]

end Sys2Proof.Machine
end

section
/-! What every step leaves of the transaction: the registers TNS (R223), the transitions of STATE (R200), the bytes
transmitted (R238), and the frame of SEND, CANCEL, the port events and the wire tokens. -/

namespace Sys2Proof.Machine

/-! ### What port events leave alone, in every state -/

/-- What the elementary changes keep of which a received byte's rounds are made, receiving a byte keeps. -/
theorem receive_preserves {P : State → Prop} (b : Byte) {s : State}
    (rx : ∀ u bs, P u → P { u with rx := bs })
    (acked : ∀ u, P u → P { u with tmState := .awaitReply, timer := u.replyTo })
    (failed : ∀ stage u, P u → P (failAttempt stage u))
    (transmitted : ∀ u, P u → P (transmit [ack] u))
    (stale : ∀ u, P u → P { u with staleSeen := true })
    (matched : ∀ dst src body u, P u → P (matchReply dst src body u)) (h : P s) : P (receive b s) := by
  have reply : ∀ c rest u t, replyStep c rest u = .goOn t ∨ replyStep c rest u = .stop t → P u → P t := by
    intro c rest u t ht hu
    rcases replyStep_cases c rest u with
      ⟨-, he⟩ | ⟨-, ⟨-, he⟩ | ⟨-, he⟩ | ⟨used, dst, src, body, -, ⟨-, he⟩ | ⟨-, he⟩⟩⟩ <;>
      rcases ht with ht | ht <;> cases he.symm.trans ht
    · exact rx u rest hu
    · exact hu
    · exact failed .reply u hu
    · have hacked := transmitted _ (rx u (u.rx.drop used) hu)
      exact matched dst src body _ hacked
    · have hacked := transmitted _ (rx u (u.rx.drop used) hu)
      exact stale _ hacked
  refine receive_keeps b (fun _ hs => rx s _ hs) (fun c rest u _ _ hu => ?_)
    (fun c rest u t _ _ ht => reply c rest u t (.inl ht)) (fun c rest u t _ _ ht => reply c rest u t (.inr ht)) h
  rcases ackStep_cases c rest u with ⟨-, he⟩ | ⟨-, he⟩ <;> rw [he]
  · exact acked _ (rx u rest hu)
  · exact failed .ack u hu

/-- The state without what port events write: two states agree here where they differ at most in that. -/
def outsideWait (s : State) : State :=
  { s with
    tmState := .idle, fail := .none, staleSeen := false, retryCount := 0, timer := 0, replySts := 0, replyDst := 0
    replySrc := 0, replyLen := 0, rx := [], txs := [], mem := [], replyDraw := 0 }

@[simp] theorem outsideWait_failAttempt (stage : Stage) (s : State) :
    outsideWait (failAttempt stage s) = outsideWait s := by
  rcases failAttempt_cases stage s with ⟨-, he⟩ | ⟨-, he⟩ <;> rw [he] <;> rfl

@[simp] theorem outsideWait_tickState (s : State) : outsideWait (tickState s) = outsideWait s := by
  rcases tickState_cases s with ⟨-, he⟩ | ⟨-, -, he⟩ | ⟨-, -, he⟩ <;> rw [he]
  · rfl
  · exact outsideWait_failAttempt _ s

@[simp] theorem outsideWait_receive (b : Byte) (s : State) : outsideWait (receive b s) = outsideWait s :=
  receive_preserves (P := fun u => outsideWait u = outsideWait s) b (fun _ _ hu => hu) (fun _ hu => hu)
    (fun stage u hu => (outsideWait_failAttempt stage u).trans hu) (fun _ hu => hu) (fun _ hu => hu)
    (fun _ _ _ _ hu => hu) rfl

section
variable {s t : State} (h : outsideWait t = outsideWait s)
include h

/-- A part of the state that port events do not write. -/
theorem eq_of_outsideWait {α : Type} (part : State → α) (hpart : ∀ u, part (outsideWait u) = part u) :
    part t = part s := by
  rw [← hpart, h, hpart]

theorem sameSetup_of_outsideWait : SameSetup s t where
  chkKind := eq_of_outsideWait h State.chkKind fun _ => rfl
  maxRetries := eq_of_outsideWait h State.maxRetries fun _ => rfl
  ackTo := eq_of_outsideWait h State.ackTo fun _ => rfl
  replyTo := eq_of_outsideWait h State.replyTo fun _ => rfl
  addrSrc := eq_of_outsideWait h State.addrSrc fun _ => rfl
  addrDst := eq_of_outsideWait h State.addrDst fun _ => rfl
  inLen := eq_of_outsideWait h State.inLen fun _ => rfl
  params := eq_of_outsideWait h State.params fun _ => rfl
  inputs := eq_of_outsideWait h State.inputs fun _ => rfl
  lastRead := eq_of_outsideWait h State.lastRead fun _ => rfl

theorem sameResults_of_outsideWait : SameResults s t where
  resCode := eq_of_outsideWait h State.resCode fun _ => rfl
  resVok := eq_of_outsideWait h State.resVok fun _ => rfl
  outLen := eq_of_outsideWait h State.outLen fun _ => rfl
  decInfo.decDst := eq_of_outsideWait h State.decDst fun _ => rfl
  decInfo.decSrc := eq_of_outsideWait h State.decSrc fun _ => rfl
  decInfo.decConsumed := eq_of_outsideWait h State.decConsumed fun _ => rfl

theorem tns_of_outsideWait : t.tnsNext = s.tnsNext ∧ t.tnsCur = s.tnsCur :=
  ⟨eq_of_outsideWait h State.tnsNext fun _ => rfl,
    eq_of_outsideWait h State.tnsCur fun _ => rfl⟩

theorem txFrame_of_outsideWait : t.txFrame = s.txFrame := eq_of_outsideWait h State.txFrame fun _ => rfl

end

/-! ### TNS -/

/-- R223: RESET and an accepted SEND apart, an instruction leaves TNS. -/
theorem exec_tns {i : Instr} {s t : State} (h : exec i s = .next t) (hr : i ≠ .reset)
    (hs : ¬(i = .send ∧ sendRefusal s = none)) : t.tnsNext = s.tnsNext ∧ t.tnsCur = s.tnsCur := by
  rcases instr_kinds i with hc | rfl | rfl | ⟨code, rfl⟩ | rfl | rfl | ⟨b, bs, hb⟩
  case inl => exact ⟨(codec_sameTransaction hc h).tnsNext, (codec_sameTransaction hc h).tnsCur⟩
  case inr.inl =>
    rcases send_next h with ⟨e, -, rfl⟩ | ⟨haccepted, -⟩
    · exact ⟨rfl, rfl⟩
    · exact absurd ⟨rfl, haccepted⟩ hs
  case inr.inr.inl => cases h; exact ⟨rfl, rfl⟩
  case inr.inr.inr.inl => cases h; exact ⟨rfl, rfl⟩
  case inr.inr.inr.inr.inl => cases h; exact tns_of_outsideWait (outsideWait_tickState s)
  case inr.inr.inr.inr.inr.inl => exact absurd rfl hr
  case inr.inr.inr.inr.inr.inr =>
    rw [exec_of_arrivingBytes hb] at h
    cases h
    rw [present_tnsNext, present_tnsCur]; exact tns_of_outsideWait (outsideWait_receive b s)

/-- Settles O40: RESET and an accepted SEND by their own effects, every other instruction by `exec_tns`. -/
theorem tnsAdvancesAtAcceptedSendsOnly : Obligations.TnsAdvancesAtAcceptedSendsOnly := by
  intro s t hstep
  rcases step_cases hstep with ⟨hf, rfl⟩ | ⟨i, hf, hrun⟩ | ⟨a, n, hf, hread⟩ | ⟨a, n, v, hf, hwrite⟩
  case inl => simp [hf]
  case inr.inr.inl => obtain ⟨-, rfl⟩ := hostRead_next.mp hread; simp [hf]
  case inr.inr.inr =>
    have hsame := (hostWrite_written hwrite).sameTransaction
    rw [if_neg (by rw [hf]; nofun), if_neg (by rw [hf]; nofun)]
    exact ⟨hsame.tnsNext, hsame.tnsCur⟩
  case inr.inl =>
    simp only [hf, Request.run.injEq]
    split
    · next hi => subst hi; cases hrun; exact ⟨rfl, rfl⟩
    · next hr =>
      split
      · next hi =>
        obtain ⟨rfl, haccepted⟩ := hi
        rcases send_next hrun with ⟨e, hrefused, -⟩ | ⟨-, body, -, rfl⟩
        · cases haccepted.symm.trans hrefused
        · exact ⟨rfl, rfl⟩
      · next hs =>
        have htns := exec_tns hrun hr hs
        exact htns

/-! ### The bytes transmitted -/

/-- R238: `ys` is `xs` and, after it, pieces each of which is the frame or an ACK. -/
def Transmits (frame xs ys : List Byte) : Prop :=
  ∃ pieces : List (List Byte), ys = xs ++ pieces.flatten ∧ ∀ p ∈ pieces, p = frame ∨ p = [0x06]

theorem transmits_refl (frame xs : List Byte) : Transmits frame xs xs := ⟨[], by simp, by simp⟩

theorem Transmits.append {frame xs ys p : List Byte} (h : Transmits frame xs ys) (hp : p = frame ∨ p = [0x06]) :
    Transmits frame xs (ys ++ p) := by
  obtain ⟨pieces, rfl, hpieces⟩ := h
  refine ⟨pieces ++ [p], by simp, fun q hq => ?_⟩
  rcases List.mem_append.mp hq with hq | hq
  · exact hpieces q hq
  · rw [List.mem_singleton.mp hq]; exact hp

/-- R210: a failed attempt transmits the frame or nothing. -/
theorem transmits_failAttempt {s : State} {xs : List Byte} (stage : Stage) (h : Transmits s.txFrame xs s.txs) :
    Transmits s.txFrame xs (failAttempt stage s).txs := by
  rcases failAttempt_cases stage s with ⟨-, he⟩ | ⟨-, he⟩ <;> rw [he]
  · exact h.append (.inl rfl)
  · exact h

theorem transmits_tickState (s : State) : Transmits s.txFrame s.txs (tickState s).txs := by
  have hrefl := transmits_refl s.txFrame s.txs
  rcases tickState_cases s with ⟨-, he⟩ | ⟨-, -, he⟩ | ⟨-, -, he⟩ <;> rw [he]
  · exact hrefl
  · exact hrefl
  · exact transmits_failAttempt _ hrefl

theorem transmits_receive (b : Byte) (s : State) : Transmits s.txFrame s.txs (receive b s).txs := by
  refine (receive_preserves (P := fun u => u.txFrame = s.txFrame ∧ Transmits s.txFrame s.txs u.txs) b (fun _ _ hu => hu)
    (fun _ hu => hu) (fun stage u hu => ?failed) (fun u hu => ⟨hu.1, hu.2.append (.inr rfl)⟩) (fun _ hu => hu)
    (fun _ _ _ _ hu => hu) ⟨rfl, transmits_refl _ _⟩).2
  obtain ⟨hframe, hpieces⟩ := hu
  rw [← hframe] at hpieces ⊢
  exact ⟨txFrame_of_outsideWait (outsideWait_failAttempt stage u), transmits_failAttempt stage hpieces⟩

/-- R238: what an instruction transmits, RESET apart. -/
theorem exec_transmits {i : Instr} {s t : State} (h : exec i s = .next t) (hr : i ≠ .reset) :
    Transmits t.txFrame s.txs t.txs := by
  rcases instr_kinds i with hc | rfl | rfl | ⟨code, rfl⟩ | rfl | rfl | ⟨b, bs, hb⟩
  case inl => rw [(codec_sameTransaction hc h).txs]; exact transmits_refl _ _
  case inr.inl =>
    rcases send_next h with ⟨e, -, rfl⟩ | ⟨-, body, -, rfl⟩
    · exact transmits_refl _ _
    · exact (transmits_refl _ _).append (.inl rfl)
  case inr.inr.inl => cases h; exact transmits_refl _ _
  case inr.inr.inr.inl => cases h; exact transmits_refl _ _
  case inr.inr.inr.inr.inl =>
    cases h
    rw [txFrame_of_outsideWait (outsideWait_tickState s)]; exact transmits_tickState s
  case inr.inr.inr.inr.inr.inl => exact absurd rfl hr
  case inr.inr.inr.inr.inr.inr =>
    rw [exec_of_arrivingBytes hb] at h
    cases h
    rw [present_txFrame, present_txs, txFrame_of_outsideWait (outsideWait_receive b s)]; exact transmits_receive b s

/-- Settles O50: waiting and host accesses transmit nothing, instructions by `exec_transmits`. -/
theorem onlyFramesAndAcksAreTransmitted : Obligations.OnlyFramesAndAcksAreTransmitted := by
  intro s t hstep hr
  rcases step_cases hstep with ⟨-, rfl⟩ | ⟨i, hf, hrun⟩ | ⟨a, n, -, hread⟩ | ⟨a, n, v, -, hwrite⟩
  case inl => exact transmits_refl _ _
  case inr.inl =>
    have htransmits := exec_transmits hrun fun hi => hr (hi ▸ hf)
    exact htransmits
  case inr.inr.inl => obtain ⟨-, rfl⟩ := hostRead_next.mp hread; exact transmits_refl _ _
  case inr.inr.inr => rw [(hostWrite_written hwrite).sameTransaction.txs]; exact transmits_refl _ _

/-! ### The ends of a received byte -/

/-- What a received byte does in a state that meets the invariant (R218 to R232). -/
inductive ReceiveEnd (b : Byte) (s : State) : State → Prop where
  | ignored : ReceiveEnd b s s
  | acked (hs : s.tmState = .awaitAck) (hb : b = ack) :
    ReceiveEnd b s { s with tmState := .awaitReply, timer := s.replyTo }
  | failed (hw : awaiting s = true) (hb : s.tmState = .awaitAck → b ≠ ack) :
    ReceiveEnd b s (failAttempt (waitStage s) s)
  | kept : ReceiveEnd b s { s with rx := s.rx ++ [b] }
  | stale : ReceiveEnd b s { s with rx := [], txs := s.txs ++ [ack], staleSeen := true }
  | matched (hs : s.tmState = .awaitReply) (dst src : Byte) (body : List Byte)
    (hbody : body.length + 2 ≤ s.params.maxInterior) : ReceiveEnd b s (matchReply dst src body (transmit [ack] s))

theorem waitStage_awaitAck {s : State} (hs : s.tmState = .awaitAck) : waitStage s = .ack := if_pos hs

theorem waitStage_awaitReply {s : State} (hs : s.tmState = .awaitReply) : waitStage s = .reply :=
  if_neg (by rw [hs]; nofun)

theorem receiveEnd_frameByteEffect {b : Byte} {s : State} (hs : s.tmState = .awaitReply) :
    ReceiveEnd b s (frameByteEffect b s (decodeFrame s.params.maxInterior s.chkKind (s.rx ++ [b]))) := by
  have bad : ReceiveEnd b s (failAttempt .reply s) := by
    rw [← waitStage_awaitReply hs]
    exact .failed (awaiting_iff.mpr (.inr hs)) fun hs' => by cases hs.symm.trans hs'
  cases hd : decodeFrame s.params.maxInterior s.chkKind (s.rx ++ [b]) with
  | incomplete => exact .kept
  | malformed used => exact bad
  | checksum used => exact bad
  | ok used dst src body =>
    rw [frameByteEffect]
    split
    · exact .matched hs dst src body (decodeFrame_ok_length hd)
    · exact .stale

theorem receive_end (b : Byte) {s : State} (h : Inv s) : ReceiveEnd b s (receive b s) := by
  cases hw : awaiting s with
  | false => rw [receive_resting b hw]; exact .ignored
  | true =>
    rcases awaiting_iff.mp hw with hs | hs
    · by_cases hb : b = ack
      · subst hb; rw [receive_acked hs (h.ackWait hs)]; exact .acked hs rfl
      · rw [receive_unacked hs (h.ackWait hs) hb, ← waitStage_awaitAck hs]; exact .failed hw fun _ => hb
    · by_cases hb : s.rx = [] ∧ isHandshake b = true
      · rw [receive_handshake hs hb.1 hb.2]; exact .ignored
      · have hframe : InFrame b s := ⟨h.replyWait hs, fun hr => by simpa [hr] using hb⟩
        rw [receive_inFrame hs hframe]; exact receiveEnd_frameByteEffect hs

/-! ### The transitions of STATE -/

/-- R200, R210: where a failed attempt leads, by the wait it ends. -/
theorem failAttempt_transition {s : State} (hw : awaiting s = true) :
    (failAttempt (waitStage s) s).tmState = s.tmState ∨
    (s.tmState = .awaitAck ∧ (failAttempt (waitStage s) s).tmState = .failed ∧
      (failAttempt (waitStage s) s).fail = .noAck) ∨
    (s.tmState = .awaitReply ∧
      ((failAttempt (waitStage s) s).tmState = .awaitAck ∧
          (failAttempt (waitStage s) s).retryCount = s.retryCount + 1 ∨
        (failAttempt (waitStage s) s).tmState = .failed ∧ (failAttempt (waitStage s) s).fail = .noReply)) := by
  rcases awaiting_iff.mp hw with hs | hs
  · rw [waitStage_awaitAck hs, hs]
    rcases failAttempt_cases .ack s with ⟨-, he⟩ | ⟨-, he⟩ <;> rw [he]
    · exact .inl rfl
    · exact .inr (.inl ⟨rfl, rfl, rfl⟩)
  · rw [waitStage_awaitReply hs, hs]
    rcases failAttempt_cases .reply s with ⟨-, he⟩ | ⟨-, he⟩ <;> rw [he]
    · exact .inr (.inr ⟨rfl, .inl ⟨rfl, rfl⟩⟩)
    · exact .inr (.inr ⟨rfl, .inr ⟨rfl, rfl⟩⟩)

/-- Settles O49: a TICK by `tickState_cases`, a received byte by its ends, where each failed attempt is
`failAttempt_transition`. -/
theorem stateChangesOnlyAsTheTableSays : Obligations.StateChangesOnlyAsTheTableSays := by
  intro i s t h ht
  rcases instr_kinds i with hc | rfl | rfl | ⟨code, rfl⟩ | rfl | rfl | ⟨b, bs, hb⟩
  case inl => exact .inl (codec_sameTransaction hc ht).tmState
  case inr.inl =>
    rcases send_next ht with ⟨e, -, rfl⟩ | ⟨haccepted, body, -, rfl⟩
    · exact .inl rfl
    · have hw := (sendRefusal_eq_none.mp haccepted).1
      have hrest := mt awaiting_iff.mpr (Bool.eq_false_iff.mp hw)
      exact .inr (.inl ⟨rfl, fun hs => hrest (.inl hs), fun hs => hrest (.inr hs), rfl, rfl⟩)
  case inr.inr.inl => cases ht; simp
  case inr.inr.inr.inl => cases ht; exact .inl rfl
  case inr.inr.inr.inr.inl =>
    cases ht
    rcases tickState_cases s with ⟨-, he⟩ | ⟨-, -, he⟩ | ⟨hw, -, he⟩ <;> rw [he]
    · exact .inl rfl
    · exact .inl rfl
    · rcases failAttempt_transition hw with hstay | hack | hreply
      · exact .inl hstay
      · exact .inr (.inr (.inr (.inl ⟨.inl rfl, hack⟩)))
      · exact .inr (.inr (.inr (.inr (.inl ⟨.inl rfl, hreply⟩))))
  case inr.inr.inr.inr.inr.inl => cases ht; simp [State.resetWith]
  case inr.inr.inr.inr.inr.inr =>
    have hbyte : receivedByte i = some b := by rw [receivedByte, hb]; rfl
    rw [exec_of_arrivingBytes hb] at ht
    cases ht
    rw [present_tmState, present_fail, present_retryCount]
    have hend := receive_end b h
    generalize receive b s = u at hend ⊢
    cases hend with
    | ignored | kept | stale => exact .inl rfl
    | acked hs hack => exact .inr (.inr (.inl ⟨hbyte.trans (congrArg some hack), hs, rfl⟩))
    | matched hs => exact .inr (.inr (.inr (.inr (.inr (.inl ⟨⟨b, hbyte⟩, hs, rfl⟩)))))
    | failed hw hne =>
      rcases failAttempt_transition hw with hstay | hack | hreply
      · exact .inl hstay
      · exact .inr (.inr (.inr (.inl ⟨.inr ⟨b, hne hack.1, hbyte⟩, hack⟩)))
      · exact .inr (.inr (.inr (.inr (.inl ⟨.inr ⟨b, hbyte⟩, hreply⟩))))

/-! ### The frame of the transaction's instructions -/

/-- SEND and CANCEL write no host register, no codec result but RES, and no memory. -/
theorem transactionCommand_frame {i : Instr} {s t : State} (hi : i = .send ∨ i = .cancel) (h : exec i s = .next t) :
    SameSetup s t ∧ t.outLen = s.outLen ∧ SameDecInfo s t ∧ SameBytes s t := by
  rcases hi with rfl | rfl
  · rcases send_next h with ⟨e, -, rfl⟩ | ⟨-, body, -, rfl⟩
    · exact ⟨by constructor <;> rfl, rfl, ⟨rfl, rfl, rfl⟩, fun _ => rfl⟩
    · exact ⟨by constructor <;> rfl, rfl, ⟨rfl, rfl, rfl⟩, fun _ => rfl⟩
  · cases h
    exact ⟨by constructor <;> rfl, rfl, ⟨rfl, rfl, rfl⟩, fun _ => rfl⟩

/-- R44, R212: memory changes at a match alone, and there at REPLY_BUF[0:REPLY_LEN]. -/
def StoresOnlyAtMatch (s t : State) : Prop :=
  SameBytes s t ∨ (s.tmState = .awaitReply ∧ t.tmState = .matched ∧ SameBytesOutside 0x30000 t.replyLen.toNat s t)

theorem StoresOnlyAtMatch.clauses {s t : State} (h : StoresOnlyAtMatch s t) :
    (s.tmState = .awaitReply ∧ t.tmState = .matched → SameBytesOutside 0x30000 t.replyLen.toNat s t) ∧
    (¬(s.tmState = .awaitReply ∧ t.tmState = .matched) → SameBytes s t) := by
  rcases h with hsame | ⟨hs, ht, houtside⟩
  · exact ⟨fun _ b _ => hsame b, fun _ => hsame⟩
  · exact ⟨fun _ => houtside, fun hno => absurd ⟨hs, ht⟩ hno⟩

@[simp] theorem failAttempt_mem (stage : Stage) (s : State) : (failAttempt stage s).mem = s.mem := by
  rcases failAttempt_cases stage s with ⟨-, he⟩ | ⟨-, he⟩ <;> rw [he]

@[simp] theorem tickState_mem (s : State) : (tickState s).mem = s.mem := by
  rcases tickState_cases s with ⟨-, he⟩ | ⟨-, -, he⟩ | ⟨-, -, he⟩ <;> simp [he]

theorem storesOnlyAtMatch_receive (b : Byte) {s : State} (h : Inv s) : StoresOnlyAtMatch s (receive b s) := by
  have hend := receive_end b h
  generalize receive b s = u at hend ⊢
  cases hend with
  | ignored | acked | kept | stale => exact .inl fun _ => rfl
  | failed => exact .inl fun a => by rw [failAttempt_mem]
  | matched hs dst src body hbody =>
    refine .inr ⟨hs, rfl, ?_⟩
    rw [matchReply_replyLen, toNat_bodyLength h hbody]
    exact sameBytesOutside_matchReply dst src body (transmit [ack] s)

/-- A TICK, or the arrival of bytes: what they leave alone and what they store. -/
theorem event_frame {i : Instr} {s t : State} (h : Inv s) (hi : i = .tick ∨ arrivingBytes i ≠ [])
    (ht : exec i s = .next t) :
    ∃ u, t = present (arrivingBytes i).tail u ∧ outsideWait u = outsideWait s ∧ StoresOnlyAtMatch s u := by
  rcases hi with rfl | ha
  · cases ht
    exact ⟨tickState s, rfl, outsideWait_tickState s, .inl fun a => by rw [tickState_mem]⟩
  · obtain ⟨b, bs, hb⟩ := List.exists_cons_of_ne_nil ha
    rw [exec_of_arrivingBytes hb] at ht
    cases ht
    exact ⟨receive b s, by rw [hb]; rfl, outsideWait_receive b s, storesOnlyAtMatch_receive b h⟩

/-- Settles O55: the two commands by `transactionCommand_frame`, the events by `event_frame`. -/
theorem transactionInstructionsFrame : Obligations.TransactionInstructionsFrame := by
  intro i s t h hi ht
  rw [← or_assoc] at hi
  rcases hi with hcommand | hevent
  case inl =>
    obtain ⟨hsetup, hout, hdec, hmem⟩ := transactionCommand_frame hcommand ht
    have hnone : arrivingBytes i = [] := by rcases hcommand with rfl | rfl <;> rfl
    have hno : i ≠ .send → i ≠ .cancel → SameResults s t ∧ t.txFrame = s.txFrame := fun hs hc =>
      absurd hcommand (not_or.mpr ⟨hs, hc⟩)
    exact ⟨{ hsetup with inputs := rfl }, by rw [hnone]; exact hsetup.inputs, hout, hdec, hno,
      StoresOnlyAtMatch.clauses (.inl hmem)⟩
  case inr =>
    obtain ⟨u, rfl, hu, hmem⟩ := event_frame h hevent ht
    have hsetup := sameSetup_of_outsideWait hu
    have hresults := sameResults_of_outsideWait hu
    have hframe := txFrame_of_outsideWait hu
    refine ⟨{ hsetup with inputs := rfl }, ?inputs, hresults.outLen, { hresults.decInfo with },
      fun _ _ => ⟨{ hresults with decInfo := { hresults.decInfo with } }, hframe⟩, hmem.clauses⟩
    case inputs => rw [present_inputs, hsetup.inputs]; rfl

end Sys2Proof.Machine
end

section
/-! The bound on the attempts of a transaction that no ACK comes to (R234): its states, and the TICKs left to each. -/

namespace Sys2Proof.Machine

/-- The transaction of the accepted SEND that ends in `u`, in its `n`-th attempt, `base` having been transmitted
before it. -/
def attempt (u : State) (base : List Byte) (n : BitVec 8) (timer : Word) : State :=
  { u with retryCount := n, timer := timer, txs := base ++ (List.replicate n.toNat u.txFrame).flatten }

/-- The transaction once its last attempt has failed. -/
def exhausted (u : State) (base : List Byte) : State :=
  { attempt u base u.maxRetries 0 with tmState := .failed, fail := .noAck }

/-- The states of the transaction while no ACK comes, each with the number of TICKs that, with no byte received, it is from
its end in FAILED. -/
inductive WithoutAck (u : State) (base : List Byte) : Nat → State → Prop where
  | trying (n : BitVec 8) (v : Word) (hv : 1 ≤ v.toNat) (hn : n.toNat ≤ u.maxRetries.toNat) :
    WithoutAck u base ((u.maxRetries.toNat - n.toNat) * u.ackTo.toNat + v.toNat) (attempt u base n v)
  | failed : WithoutAck u base 0 (exhausted u base)

section
variable {u : State} {base : List Byte} {left : Nat} {t : State}

theorem WithoutAck.failed_iff (hs : u.tmState = .awaitAck) (h : WithoutAck u base left t) :
    t.tmState = .failed ↔ left = 0 := by
  cases h with
  | trying n v hv => simp only [attempt, hs, reduceCtorEq, false_iff]; omega
  | failed => exact iff_of_true rfl rfl

variable (hs : u.tmState = .awaitAck) (hr : u.rx = [])
include hs hr

/-- R210: the next attempt has the whole ACK_TO before it. -/
theorem attempt_retry {n : BitVec 8} (v : Word) (hn : n < u.maxRetries) :
    failAttempt .ack (attempt u base n v) = attempt u base (n + 1) u.ackTo := by
  have hnext : (n + 1).toNat = n.toNat + 1 := by bv_omega
  have hcopies : (List.replicate (n + 1).toNat u.txFrame).flatten =
      (List.replicate n.toNat u.txFrame).flatten ++ u.txFrame := by rw [hnext, List.replicate_succ']; simp
  rw [failAttempt_retry (s := attempt u base n v) hn]
  simp only [attempt, hs, hr, hcopies, List.append_assoc]

variable (hack : 1 ≤ u.ackTo.toNat)
include hack

/-- R210: a failed attempt leaves ACK_TO TICKs for each attempt that remains. -/
theorem withoutAck_failAttempt {n : BitVec 8} (v : Word) (hn : n.toNat ≤ u.maxRetries.toNat) :
    WithoutAck u base ((u.maxRetries.toNat - n.toNat) * u.ackTo.toNat) (failAttempt .ack (attempt u base n v)) := by
  by_cases hlt : n < u.maxRetries
  · have hnext : (n + 1).toNat = n.toNat + 1 := by bv_omega
    have hle : n.toNat + 1 ≤ u.maxRetries.toNat := hlt
    have hleft : (u.maxRetries.toNat - n.toNat) * u.ackTo.toNat =
        (u.maxRetries.toNat - (n + 1).toNat) * u.ackTo.toNat + u.ackTo.toNat := by
      rw [hnext, ← Nat.succ_mul]; congr 1; omega
    rw [attempt_retry hs hr v hlt, hleft]
    exact .trying (n + 1) u.ackTo hack (by omega)
  · obtain rfl : n = u.maxRetries := by bv_omega
    rw [failAttempt_exhausted (s := attempt u base u.maxRetries v) hlt, Nat.sub_self, Nat.zero_mul]
    have hend : { attempt u base u.maxRetries v with rx := [], tmState := .failed, timer := 0, fail := .noAck } =
        exhausted u base := by simp only [exhausted, attempt, hr]
    rw [Stage.reason, hend]
    exact .failed

/-- R215: a TICK brings the end one TICK nearer. -/
theorem withoutAck_tickState (h : WithoutAck u base left t) : WithoutAck u base (left - 1) (tickState t) := by
  cases h with
  | failed => rw [tickState_resting rfl]; exact .failed
  | trying n v hv hn =>
    have hw : awaiting (attempt u base n v) = true := awaiting_iff.mpr (.inl hs)
    by_cases h2 : 2 ≤ v.toNat
    · have hv1 : (v - 1).toNat = v.toNat - 1 := by bv_omega
      rw [tickState_running hw h2, Nat.add_sub_assoc hv, ← hv1]
      exact .trying n (v - 1) (by omega) hn
    · obtain rfl : v = 1 := by bv_omega
      rw [tickState_expired hw rfl, waitStage_awaitAck (s := attempt u base n 1) hs]
      exact withoutAck_failAttempt hs hr hack 1 hn

/-- R219: a byte other than ACK brings the end no further off. -/
theorem withoutAck_receive {b : Byte} (h : WithoutAck u base left t) (hb : b ≠ 0x06) :
    ∃ left' ≤ left, WithoutAck u base left' (receive b t) := by
  cases h with
  | failed => rw [receive_resting b rfl]; exact ⟨0, le_rfl, .failed⟩
  | trying n v hv hn =>
    rw [receive_unacked (s := attempt u base n v) hs hr hb]
    exact ⟨_, Nat.le_add_right _ _, withoutAck_failAttempt hs hr hack v hn⟩

/-- R234: TICKs, and bytes other than ACK. -/
theorem withoutAck_runAll {events : List Instr} (he : ∀ e ∈ events, e = .tick ∨ ∃ b, b ≠ 0x06#8 ∧ e = .rx b) :
    ∀ {left t}, WithoutAck u base left t →
      ∃ t' left', runAll events t = .next t' ∧ left' ≤ left - events.count .tick ∧ WithoutAck u base left' t' := by
  induction events with
  | nil => exact fun {left t} h => ⟨t, left, rfl, le_rfl, h⟩
  | cons e es ih =>
    intro left t h
    obtain ⟨hhead, htail⟩ := List.forall_mem_cons.mp he
    rcases hhead with rfl | ⟨b, hb, rfl⟩
    · obtain ⟨t', left', hrun, hle, h'⟩ := ih htail (withoutAck_tickState hs hr hack h)
      exact ⟨t', left', hrun, by rw [List.count_cons_self]; omega, h'⟩
    · obtain ⟨mid, hmid, hnext⟩ := withoutAck_receive hs hr hack h hb
      obtain ⟨t', left', hrun, hle, h'⟩ := ih htail hnext
      exact ⟨t', left', hrun, by rw [List.count_cons_of_ne (by nofun)]; omega, h'⟩

/-- R234: TICKs alone. -/
theorem withoutAck_runTicks (n : Nat) : ∀ {left t}, WithoutAck u base left t →
    ∃ t', runAll (List.replicate n .tick) t = .next t' ∧ WithoutAck u base (left - n) t' := by
  induction n with
  | zero => exact fun {left t} h => ⟨t, rfl, h⟩
  | succ n ih =>
    intro left t h
    obtain ⟨t', hrun, h'⟩ := ih (withoutAck_tickState hs hr hack h)
    exact ⟨t', hrun, by rwa [Nat.sub_sub, Nat.add_comm 1] at h'⟩

end

/-- R222: an accepted SEND has all its attempts' TICKs before it. -/
theorem withoutAck_startTransaction {s : State} (body : List Byte) (hcfg : cfgOk s = true) :
    WithoutAck (startTransaction body s) s.txs (s.maxRetries.toNat * s.ackTo.toNat) (startTransaction body s) := by
  obtain ⟨hretries, hack, -⟩ := cfgOk_iff.mp hcfg
  have hfirst : attempt (startTransaction body s) s.txs 1 s.ackTo = startTransaction body s := by
    simp [attempt, startTransaction, finish, setRes, transmit]
  have hleft : (s.maxRetries.toNat - (1#8).toNat) * s.ackTo.toNat + s.ackTo.toNat = s.maxRetries.toNat * s.ackTo.toNat := by
    rw [← Nat.succ_mul]; congr 1; simp; omega
  have h := WithoutAck.trying (u := startTransaction body s) (base := s.txs) 1 s.ackTo hack hretries
  rw [hfirst] at h
  exact hleft ▸ h

/-- R220: a SEND that ends with the result code OK was accepted. -/
theorem send_ok {s u : State} (h : exec .send s = .next u) (hok : u.resCode = .ok) :
    sendRefusal s = none ∧ ∃ body, u = startTransaction body s := by
  rcases send_next h with ⟨e, hrefused, rfl⟩ | ⟨haccepted, body, -, rfl⟩
  · obtain rfl : e = .ok := hok
    simp only [sendRefusal] at hrefused
    repeat' split at hrefused
    all_goals cases hrefused
  · exact ⟨haccepted, body, rfl⟩

/-- Settles O51: the accepted SEND is `s.maxRetries * s.ackTo` TICKs from the end, which each TICK brings nearer by one. -/
theorem retryBoundWithoutAck : Obligations.RetryBoundWithoutAck := by
  intro s u _ hsend hok
  obtain ⟨haccepted, body, rfl⟩ := send_ok hsend hok
  obtain ⟨-, hcfg, -⟩ := sendRefusal_eq_none.mp haccepted
  have hack : 1 ≤ (startTransaction body s).ackTo.toNat := (cfgOk_iff.mp hcfg).2.1
  have hstart := withoutAck_startTransaction body hcfg
  refine ⟨fun events he => ?events, fun n t hrun => ?ticks⟩
  case events =>
    obtain ⟨t, left, hrun, hle, ht⟩ := withoutAck_runAll rfl rfl hack he hstart
    refine ⟨t, hrun, ?_, fun hcount => (ht.failed_iff rfl).mpr (by omega)⟩
    cases ht with
    | trying n v hv hn => exact .inl rfl
    | failed => exact .inr ⟨rfl, rfl, rfl, rfl⟩
  case ticks =>
    obtain ⟨t', hrun', ht⟩ := withoutAck_runTicks rfl rfl hack n hstart
    cases hrun.symm.trans hrun'
    rw [ht.failed_iff rfl, Nat.sub_eq_zero_iff_le]

end Sys2Proof.Machine
end

section
/-! How commands end (60_exceptions.md): a next state, or the fault of unwritten input (93 U4), and the result codes each may
write (R261). -/

namespace Sys2Proof.Machine

/-! ### Stops -/

/-- 93 U4: an outcome that is a next state, but for the fault where the input of `s` includes an unwritten byte. -/
def AnswersWrittenInput (s : State) (o : Host.Outcome State Fault Refusal) : Prop :=
  (∃ t, o = .next t) ∨ (o = .fault .unwrittenInput ∧ inputBytes s = none)

theorem answersWrittenInput_next (s t : State) : AnswersWrittenInput s (.next t) := .inl ⟨t, rfl⟩

theorem answersWrittenInput_withInput (s : State) (effect : List Byte → State) :
    AnswersWrittenInput s (withInput s effect) := by
  cases hx : inputBytes s with
  | some xs => exact .inl ⟨effect xs, withInput_next.mpr ⟨xs, hx, rfl⟩⟩
  | none => exact .inr ⟨withInput_fault.mpr ⟨hx, rfl⟩, hx⟩

/-- R153: a short VERIFY answers without its input. -/
theorem answersWrittenInput_checkVerify (k : ChkKind) (s : State) : AnswersWrittenInput s (checkVerify k s) := by
  by_cases hl : s.inLen.toNat < checkLen k
  · rw [checkVerify_short hl]; exact answersWrittenInput_next s _
  · rw [checkVerify, if_neg hl]; exact answersWrittenInput_withInput s _

/-- R171: an ENCODE refused by its length answers without its input. -/
theorem answersWrittenInput_encodeCommand (k : ChkKind) (s : State) : AnswersWrittenInput s (encodeCommand k s) := by
  by_cases hl : s.params.maxInterior < s.inLen.toNat + 2
  · rw [encodeCommand_tooLong hl]; exact answersWrittenInput_next s _
  · rw [encodeCommand, if_neg hl]; exact answersWrittenInput_withInput s _

theorem answersWrittenInput_codec {i : Instr} (s : State) (hc : isCodec i = true) :
    AnswersWrittenInput s (exec i s) := by
  cases i <;> simp only [isCodec, Bool.false_eq_true] at hc
  case stuff | destuff | chkBcc | chkCrc | decodeBcc | decodeCrc => exact answersWrittenInput_withInput s _
  case verifyBcc | verifyCrc => exact answersWrittenInput_checkVerify _ s
  case encodeBcc | encodeCrc => exact answersWrittenInput_encodeCommand _ s

/-- R220, R222: a refused SEND takes no input, and an accepted one takes no byte beyond the input. -/
theorem answersWrittenInput_send (s : State) : AnswersWrittenInput s (exec .send s) := by
  cases hr : sendRefusal s with
  | some e => rw [exec_send_refused hr]; exact answersWrittenInput_next s _
  | none =>
    cases hb : sendBody s.tnsNext s with
    | some body => rw [exec_send_accepted hr hb]; exact answersWrittenInput_next s _
    | none =>
      obtain ⟨-, -, h4, -⟩ := sendRefusal_eq_none.mp hr
      have hunwritten : inputBytes s = none := Option.eq_none_iff_forall_ne_some.mpr fun xs hx => by
        rw [sendBody_of_inputBytes s.tnsNext hx h4] at hb; cases hb
      exact .inr ⟨by simp only [exec, execSend, hr, hb], hunwritten⟩

/-- Settles O8: the codec commands and SEND answer on written input, and every other instruction answers in every state. -/
theorem onlyUnwrittenInputStopsAnInstruction : Obligations.OnlyUnwrittenInputStopsAnInstruction := by
  intro i s
  rcases instr_kinds i with hc | rfl | rfl | ⟨code, rfl⟩ | rfl | rfl | ⟨b, bs, hb⟩
  case inl => exact (answersWrittenInput_codec s hc).imp_right fun ⟨hfault, hx⟩ => ⟨hfault, .inl hc, hx⟩
  case inr.inl => exact (answersWrittenInput_send s).imp_right fun ⟨hfault, hx⟩ => ⟨hfault, .inr rfl, hx⟩
  case inr.inr.inr.inr.inr.inr => exact .inl ⟨_, exec_of_arrivingBytes hb s⟩
  all_goals exact .inl ⟨_, rfl⟩  -- CANCEL, a reserved code, TICK and RESET

/-! ### Result codes -/

section
variable {k : ChkKind} {s t : State}

/-- R121, R152: a command that only stores its output ends well. -/
theorem withInput_output_resCode {output : List Byte → List Byte}
    (h : withInput s (fun xs => finish (setOut (output xs) s)) = .next t) : t.resCode = .ok := by
  obtain ⟨xs, -, rfl⟩ := withInput_next.mp h; rfl

theorem execDestuff_resCode (h : execDestuff s = .next t) : t.resCode = .ok ∨ t.resCode = .malformed := by
  obtain ⟨ys, -, rfl⟩ := withInput_next.mp h
  cases hd : destuff ys with
  | some out => simp only [destuffInput, hd]; exact .inl rfl
  | none => simp only [destuffInput, hd]; exact .inr rfl

theorem checkVerify_resCode (h : checkVerify k s = .next t) : t.resCode = .ok ∨ t.resCode = .short := by
  rcases checkVerify_next h with ⟨-, rfl⟩ | ⟨-, xs, -, rfl⟩
  · exact .inr rfl
  · exact .inl rfl

theorem encodeCommand_resCode (h : encodeCommand k s = .next t) : t.resCode = .ok ∨ t.resCode = .tooLong := by
  by_cases hl : s.params.maxInterior < s.inLen.toNat + 2
  · rw [encodeCommand_tooLong hl] at h; cases h; exact .inr rfl
  · rw [encodeCommand, if_neg hl] at h
    obtain ⟨body, -, rfl⟩ := withInput_next.mp h
    cases hf : encodeFrame s.params.maxInterior s.addrSrc s.addrDst body k with
    | some f => simp only [encodeInput, hf]; exact .inl rfl
    | none => simp only [encodeInput, hf]; exact .inr rfl

theorem decodeCommandFrame_resCode (h : decodeCommandFrame k s = .next t) :
    t.resCode = .ok ∨ t.resCode = .incomplete ∨ t.resCode = .malformed ∨ t.resCode = .checksum := by
  obtain ⟨buf, -, rfl⟩ := withInput_next.mp h
  cases hd : decodeFrame s.params.maxInterior k buf <;> simp only [decodeInput, hd]
  case ok => exact .inl rfl
  case incomplete => exact .inr (.inl rfl)
  case malformed => exact .inr (.inr (.inl rfl))
  case checksum => exact .inr (.inr (.inr rfl))

/-- R220: the result codes of a refused SEND. -/
theorem sendRefusal_code {e : ResCode} (h : sendRefusal s = some e) :
    e = .busy ∨ e = .config ∨ e = .short ∨ e = .tooLong := by
  simp only [sendRefusal] at h
  repeat' split at h
  all_goals cases h
  · exact .inl rfl
  · exact .inr (.inl rfl)
  · exact .inr (.inr (.inl rfl))
  · exact .inr (.inr (.inr rfl))

theorem send_resCode (h : exec .send s = .next t) :
    t.resCode = .ok ∨ t.resCode = .busy ∨ t.resCode = .config ∨ t.resCode = .short ∨ t.resCode = .tooLong := by
  rcases send_next h with ⟨e, hrefused, rfl⟩ | ⟨-, body, -, rfl⟩
  · exact .inr (sendRefusal_code hrefused)
  · exact .inl rfl

end

/-- Settles O56: the result codes of each operation, command by command. -/
theorem resultCodesOfEachCommand : Obligations.ResultCodesOfEachCommand := by
  intro i s t h
  refine ⟨?ok, ?destuff, ?verify, ?encode, ?decode, ?send, ?reserved⟩
  case ok =>
    rintro (rfl | rfl | rfl | rfl)
    case inr.inr.inr => cases h; rfl
    all_goals exact withInput_output_resCode h
  case destuff => rintro rfl; exact execDestuff_resCode h
  case verify => rintro (rfl | rfl) <;> exact checkVerify_resCode h
  case encode => rintro (rfl | rfl) <;> exact encodeCommand_resCode h
  case decode => rintro (rfl | rfl) <;> exact decodeCommandFrame_resCode h
  case send => rintro rfl; exact send_resCode h
  case reserved => rintro code rfl; cases h; rfl

end Sys2Proof.Machine
end

section
/-! RESET (R290), waits that no byte ends (R302), and bytes that come before the ACK (R303). -/

namespace Sys2Proof.Machine

theorem exec_reset (s : State) : exec .reset s = .next { State.resetWith s.params with
    inputs := s.inputs, inDraw := s.inDraw + 1, outDraw := s.outDraw + 1, replyDraw := s.replyDraw + 1 } := rfl

/-- Settles O58: RESET takes each element from `State.resetWith`, but for those that are the model's own. -/
theorem resetSetsEveryElement : Obligations.ResetSetsEveryElement := by
  intro s
  refine ⟨_, exec_reset s, ?elements⟩
  case elements => simp only [State.resetWith, and_self]

/-! ### A wait that no byte ends -/

theorem runAll_tick_cons (is : List Instr) (s : State) : runAll (.tick :: is) s = runAll is (tickState s) := rfl

theorem runAll_rx_cons (b : Byte) (is : List Instr) (s : State) : runAll (.rx b :: is) s = runAll is (receive b s) := rfl

/-- R215: the TICKs before the last only count down. -/
theorem runAll_ticks_running (n : Nat) : ∀ (s : State), awaiting s = true → n < s.timer.toNat →
    runAll (List.replicate n .tick) s = .next { s with timer := s.timer - BitVec.ofNat 32 n } := by
  induction n with
  | zero => intro s _ _; simp [runAll]
  | succ n ih =>
    intro s hw hn
    have hlater : n < (s.timer - 1).toNat := by bv_omega
    have hcount : s.timer - 1 - BitVec.ofNat 32 n = s.timer - BitVec.ofNat 32 (n + 1) := by bv_omega
    rw [List.replicate_succ, runAll_tick_cons, tickState_running hw (by omega),
      ih { s with timer := s.timer - 1 } hw hlater, hcount]

/-- R215, R302: the TICK that brings TIMER to 0 fails the attempt. -/
theorem runAll_ticks_expired (n : Nat) : ∀ (s : State), awaiting s = true → s.timer.toNat = n + 1 →
    runAll (List.replicate (n + 1) .tick) s = .next (failAttempt (waitStage s) s) := by
  induction n with
  | zero =>
    intro s hw h
    rw [List.replicate_succ, runAll_tick_cons, tickState_expired hw (by bv_omega)]; rfl
  | succ n ih =>
    intro s hw h
    have hlater : (s.timer - 1).toNat = n + 1 := by bv_omega
    rw [List.replicate_succ, runAll_tick_cons, tickState_running hw (by omega),
      ih { s with timer := s.timer - 1 } hw hlater]
    exact congrArg _ (failAttempt_ignores (waitStage s) s s.rx (s.timer - 1))

/-- Settles O53: TIMER counts down to the TICK that fails the attempt, which is retried or was the last. -/
theorem waitFailsAtItsLastTick : Obligations.WaitFailsAtItsLastTick := by
  intro s h hs
  have hw := awaiting_iff.mpr hs
  obtain ⟨hpos, -⟩ := h.waiting hw
  obtain ⟨n, hn⟩ := Nat.exists_eq_add_of_le' hpos
  refine ⟨fun m hm => runAll_ticks_running m s hw hm, fun hlt => ?retry, fun hle => ?last⟩
  case retry => rw [hn, runAll_ticks_expired n s hw hn, failAttempt_retry hlt]
  case last =>
    rw [hn, runAll_ticks_expired n s hw hn, failAttempt_exhausted (Nat.not_lt.mpr hle), waitStage_reason]

/-! ### Bytes before the ACK -/

/-- The states of the accepted SEND that ends in `u` while bytes other than ACK arrive, each with the number of attempts
it has come to: one more than the bytes. Past MAX_RETRIES there is no further attempt. -/
inductive ComeToAttempt (u : State) (base : List Byte) : Nat → State → Prop where
  | trying (n : BitVec 8) (v : Word) (hn : n.toNat ≤ u.maxRetries.toNat) : ComeToAttempt u base n.toNat (attempt u base n v)
  | failed {k : Nat} (hk : u.maxRetries.toNat < k) : ComeToAttempt u base k (exhausted u base)

theorem attempt_startTransaction (body : List Byte) (s : State) :
    attempt (startTransaction body s) s.txs 1 s.ackTo = startTransaction body s := by
  simp [attempt, startTransaction, finish, setRes, transmit]

section
variable {u : State} {base : List Byte} {k : Nat} {t : State}

theorem ComeToAttempt.eq_attempt (h : ComeToAttempt u base k t) (hk : k ≤ u.maxRetries.toNat) :
    ∃ n v, n.toNat = k ∧ t = attempt u base n v := by
  cases h with
  | trying n v hn => exact ⟨n, v, rfl, rfl⟩
  | failed hlt => omega

theorem ComeToAttempt.eq_exhausted (h : ComeToAttempt u base k t) (hk : u.maxRetries.toNat < k) : t = exhausted u base := by
  cases h with
  | trying n v hn => omega
  | failed _ => rfl

theorem ComeToAttempt.rx_eq_nil (hr : u.rx = []) (h : ComeToAttempt u base k t) : t.rx = [] := by
  cases h with
  | trying n v hn => exact hr
  | failed _ => exact hr

/-- R210: no attempt remains. -/
theorem attempt_exhausted (hr : u.rx = []) (v : Word) :
    failAttempt .ack (attempt u base u.maxRetries v) = exhausted u base := by
  rw [failAttempt_exhausted (s := attempt u base u.maxRetries v) (BitVec.lt_irrefl _)]
  simp only [exhausted, attempt, hr, Stage.reason]

variable (hs : u.tmState = .awaitAck) (hr : u.rx = [])
include hs hr

/-- R219, R303: each byte other than ACK costs an attempt. -/
theorem comeToAttempt_receive {b : Byte} (h : ComeToAttempt u base k t) (hb : b ≠ 0x06) :
    ComeToAttempt u base (k + 1) (receive b t) := by
  cases h with
  | failed hk => rw [receive_resting b rfl]; exact .failed (Nat.lt_succ_of_lt hk)
  | trying n v hn =>
    rw [receive_unacked (s := attempt u base n v) hs hr hb]
    by_cases hlt : n < u.maxRetries
    · have hnext : (n + 1).toNat = n.toNat + 1 := by bv_omega
      rw [attempt_retry hs hr v hlt, ← hnext]
      exact .trying (n + 1) u.ackTo (by bv_omega)
    · obtain rfl : n = u.maxRetries := by bv_omega
      rw [attempt_exhausted hr]
      exact .failed (Nat.lt_succ_self _)

theorem comeToAttempt_runBytes {bytes : List Byte} (hb : ∀ b ∈ bytes, b ≠ 0x06) : ∀ {k t}, ComeToAttempt u base k t →
    ∃ t', runAll (bytes.map .rx) t = .next t' ∧ ComeToAttempt u base (k + bytes.length) t' := by
  induction bytes with
  | nil => exact fun {k t} h => ⟨t, rfl, h⟩
  | cons b bs ih =>
    intro k t h
    obtain ⟨hhead, htail⟩ := List.forall_mem_cons.mp hb
    obtain ⟨t', hrun, h'⟩ := ih htail (comeToAttempt_receive hs hr h hhead)
    refine ⟨t', by rw [List.map_cons, runAll_rx_cons, hrun], ?_⟩
    rwa [List.length_cons, Nat.add_comm bs.length, ← Nat.add_assoc]

end

/-- Settles O52: the accepted SEND is the first attempt, each byte comes to the next, and MAX_RETRIES bytes exhaust
them. -/
theorem bytesBeforeTheAckCostAttempts : Obligations.BytesBeforeTheAckCostAttempts := by
  intro s u bytes _ hsend hok hbytes
  obtain ⟨haccepted, body, rfl⟩ := send_ok hsend hok
  obtain ⟨-, hcfg, -⟩ := sendRefusal_eq_none.mp haccepted
  have hfirst : ComeToAttempt (startTransaction body s) s.txs 1 (startTransaction body s) := by
    have h := ComeToAttempt.trying (u := startTransaction body s) (base := s.txs) 1 s.ackTo (cfgOk_iff.mp hcfg).1
    rwa [attempt_startTransaction] at h
  obtain ⟨t, hrun, ht⟩ := comeToAttempt_runBytes rfl rfl hbytes hfirst
  refine ⟨t, hrun, ht.rx_eq_nil rfl, fun hlt => ?trying, fun hle => ?failed⟩
  case trying =>
    obtain ⟨n, v, hn, rfl⟩ := ht.eq_attempt (by simp only [startTransaction_maxRetries]; omega)
    rw [← hn]
    exact ⟨rfl, rfl, rfl⟩
  case failed =>
    obtain rfl := ht.eq_exhausted (by simp only [startTransaction_maxRetries]; omega)
    exact ⟨rfl, rfl, rfl, rfl⟩

end Sys2Proof.Machine
end
